-- ==== Sys2Proof/Word.lean ====
section
/-! DEFINITION. The word types: a byte of the press link, the 32-bit counts of the sheet account, a run identifier. -/

namespace Sys2Proof

/-- One byte of a frame (11 section 11.1: 8 data bits). -/
abbrev Byte := BitVec 8

/-- A count kept modulo 4,294,967,296 (R38). -/
abbrev Count := BitVec 32

/-- A run identifier, 0 to 255 (00 section 5.1). -/
abbrev RunId := BitVec 8

end Sys2Proof
end

