-- ==== Sys2Proof/Config.lean ====
section
/-! DEFINITION. What the part fixes in its build: the sizes of its tables. The spec leaves no value of an instruction open, so no free value stands here. -/

namespace Sys2Proof.Config

/-- Bins of the tower (00 section 5.1). -/
abbrev numBins : Nat := 48

/-- Drawers of the wall (R116). -/
abbrev numDrawers : Nat := 20

/-- Rows of dynamic drawers (R116). -/
abbrev numRows : Nat := 8

/-- Entries of the stock table (R74). -/
abbrev numStocks : Nat := 8

end Sys2Proof.Config
end

