-- ==== Sys2Proof/Syntax.lean ====
section
/-! DEFINITION. The commands of the part: one constructor for each row of spec/opcode_table.json.

A request row carries the tag and the bytes of its fields (the frame body after kind and tag, 11 section 11.5), so that a
body of a wrong length can be written. A row that may read the occupancy sensors carries their levels as they then stand
(notes/assumptions/2.md). -/

namespace Sys2Proof

/-- The occupancy sensors read as levels (00 section 5.5): bit `b - 1` of `bins` is bin `b`, bit `d - 1` of `drawers` is
drawer `d`; a set bit is occupied. -/
structure Occupancy where
  bins     : BitVec 48
  drawers  : BitVec 20
  overflow : Bool
  deriving DecidableEq, Repr

/-- The input lines that the part reads as levels (00 sections 5.5 and 6). -/
structure Lines where
  occ       : Occupancy
  purgeFull : Bool
  slipLow   : Bool
  slipOut   : Bool
  doorOpen  : Bool
  keyOn     : Bool
  deriving DecidableEq, Repr

/-- A receiving place of the return conveyor (R101): a drawer or the overflow tray. -/
inductive Place where
  | drawer (d : Nat)
  | overflow
  deriving DecidableEq, Repr

/-- The commands: the rows of spec/opcode_table.json, in its order. -/
inductive Instr where
  | powerOn (lines : Lines)
  | frameReceived (bytes : List Byte) (occ : Occupancy)
  | frameTimeout
  | frameSent (occ : Occupancy)
  | unknownKind (body : List Byte)
  | identify (tag : Byte) (fields : List Byte)
  | stateQuery (tag : Byte) (fields : List Byte)
  | optionSet (tag : Byte) (fields : List Byte)
  | jobOpen (tag : Byte) (fields : List Byte)
  | jobClose (tag : Byte) (fields : List Byte)
  | jobHold (tag : Byte) (fields : List Byte)
  | jobRelease (tag : Byte) (fields : List Byte)
  | jobCancel (tag : Byte) (fields : List Byte)
  | runPost (tag : Byte) (fields : List Byte)
  | runWithdraw (tag : Byte) (fields : List Byte)
  | stockSet (tag : Byte) (fields : List Byte)
  | wireLoad (tag : Byte) (fields : List Byte)
  | drawerLock (tag : Byte) (fields : List Byte)
  | drawerUnlock (tag : Byte) (fields : List Byte)
  | attnClear (tag : Byte) (fields : List Byte)
  | faultClear (tag : Byte) (fields : List Byte)
  | resume (tag : Byte) (fields : List Byte) (occ : Occupancy)
  | park (tag : Byte) (fields : List Byte)
  | restart (tag : Byte) (fields : List Byte)
  | entry
  | deposit (b : Nat)
  | purgeArrival
  | purgeFullOn
  | purgeFullOff
  | ticketDeadline
  | binEmptied (b : Nat)
  | carriageAt (b : Nat) (occ : Occupancy)
  | travelDeadline (occ : Occupancy)
  | stitchDone
  | stitchCycleDeadline
  | carriageHome (occ : Occupancy)
  | homingDeadline (occ : Occupancy)
  | slipFed
  | slipFeedDeadline
  | slipLow (on : Bool)
  | slipOut (on : Bool)
  | arrival (place : Place)
  | carryDeadline
  | overflowEmptied
  | collected (d : Nat)
  | transportReady
  | wakingDeadline
  | idleTimerExpiry
  | doorOpened
  | doorClosed
  | keyOn
  | keyOff
  deriving DecidableEq, Repr

end Sys2Proof
end

