-- ==== Sys2Proof/WellFormed.lean ====
section
/-! DEFINITION. Which commands a sender can send: a frame body that a frame can hold, a bin or drawer that exists. -/

namespace Sys2Proof

/-- A bin that exists (00 section 5.1). -/
def binOk (b : Nat) : Bool := 1 ≤ b && b ≤ Config.numBins

/-- A drawer that exists (00 section 5.1). -/
def drawerOk (d : Nat) : Bool := 1 ≤ d && d ≤ Config.numDrawers

/-- The kind bytes 0x01 to 0x13 are the 19 request kinds (11 section 11.5). -/
def isRequestKind (k : Byte) : Bool := 1 ≤ k.toNat && k.toNat ≤ 0x13

/-- The fields of a request fit a frame: the body is 1 to 250 bytes, two of them kind and tag (R154). -/
def fieldsOk (fields : List Byte) : Bool := fields.length ≤ 248

/-- The body of an UNKNOWN_KIND frame: a single byte, or a kind that is no request kind (R156). -/
def unknownBodyOk (body : List Byte) : Bool :=
  match body with
  | [] => false
  | [_] => true
  | k :: _ :: _ => !isRequestKind k && body.length ≤ 250

/-- The command is one that can reach the part. -/
def Instr.wf : Instr → Bool
  | .powerOn _ => true
  | .frameReceived bytes _ => !bytes.isEmpty
  | .frameTimeout => true
  | .frameSent _ => true
  | .unknownKind body => unknownBodyOk body
  | .identify _ f => fieldsOk f
  | .stateQuery _ f => fieldsOk f
  | .optionSet _ f => fieldsOk f
  | .jobOpen _ f => fieldsOk f
  | .jobClose _ f => fieldsOk f
  | .jobHold _ f => fieldsOk f
  | .jobRelease _ f => fieldsOk f
  | .jobCancel _ f => fieldsOk f
  | .runPost _ f => fieldsOk f
  | .runWithdraw _ f => fieldsOk f
  | .stockSet _ f => fieldsOk f
  | .wireLoad _ f => fieldsOk f
  | .drawerLock _ f => fieldsOk f
  | .drawerUnlock _ f => fieldsOk f
  | .attnClear _ f => fieldsOk f
  | .faultClear _ f => fieldsOk f
  | .resume _ f _ => fieldsOk f
  | .park _ f => fieldsOk f
  | .restart _ f => fieldsOk f
  | .entry => true
  | .deposit b => binOk b
  | .purgeArrival => true
  | .purgeFullOn => true
  | .purgeFullOff => true
  | .ticketDeadline => true
  | .binEmptied b => binOk b
  | .carriageAt b _ => binOk b
  | .travelDeadline _ => true
  | .stitchDone => true
  | .stitchCycleDeadline => true
  | .carriageHome _ => true
  | .homingDeadline _ => true
  | .slipFed => true
  | .slipFeedDeadline => true
  | .slipLow _ => true
  | .slipOut _ => true
  | .arrival .overflow => true
  | .arrival (.drawer d) => drawerOk d
  | .carryDeadline => true
  | .overflowEmptied => true
  | .collected d => drawerOk d
  | .transportReady => true
  | .wakingDeadline => true
  | .idleTimerExpiry => true
  | .doorOpened => true
  | .doorClosed => true
  | .keyOn => true
  | .keyOff => true

end Sys2Proof
end

