-- ==== Sys2Proof/Decode.lean ====
section
/-! DEFINITION. The words of commands: no row of spec/opcode_table.json gives bits, so no table word spells a command; a
request's words are the body of its frame (11 section 11.5), read and written here. -/

namespace Sys2Proof

/-- No row of spec/opcode_table.json gives its command bits, so no word spells a command. -/
def decodeTableWord (_nbits _w : Nat) : Option Instr := none

/-- The 19 request kinds (11 section 11.5). -/
inductive RequestKind where
  | identify | stateQuery | optionSet | jobOpen | jobClose | jobHold | jobRelease | jobCancel | runPost | runWithdraw
  | stockSet | wireLoad | drawerLock | drawerUnlock | attnClear | faultClear | resume | park | restart
  deriving DecidableEq, Repr

/-- The kind byte of a request (11 section 11.5). -/
def requestCode : RequestKind → Byte
  | .identify => 0x01
  | .stateQuery => 0x02
  | .optionSet => 0x03
  | .jobOpen => 0x04
  | .jobClose => 0x05
  | .jobHold => 0x06
  | .jobRelease => 0x07
  | .jobCancel => 0x08
  | .runPost => 0x09
  | .runWithdraw => 0x0A
  | .stockSet => 0x0B
  | .wireLoad => 0x0C
  | .drawerLock => 0x0D
  | .drawerUnlock => 0x0E
  | .attnClear => 0x0F
  | .faultClear => 0x10
  | .resume => 0x11
  | .park => 0x12
  | .restart => 0x13

/-- The request kind of a kind byte; `none` for any other byte, the kinds of ANSWER and of the notices among them (R156). -/
def requestOf (k : Byte) : Option RequestKind :=
  match k.toNat with
  | 0x01 => some .identify
  | 0x02 => some .stateQuery
  | 0x03 => some .optionSet
  | 0x04 => some .jobOpen
  | 0x05 => some .jobClose
  | 0x06 => some .jobHold
  | 0x07 => some .jobRelease
  | 0x08 => some .jobCancel
  | 0x09 => some .runPost
  | 0x0A => some .runWithdraw
  | 0x0B => some .stockSet
  | 0x0C => some .wireLoad
  | 0x0D => some .drawerLock
  | 0x0E => some .drawerUnlock
  | 0x0F => some .attnClear
  | 0x10 => some .faultClear
  | 0x11 => some .resume
  | 0x12 => some .park
  | 0x13 => some .restart
  | _ => none

/-- The request command of a kind. -/
def requestCommand (r : RequestKind) (tag : Byte) (fields : List Byte) (occ : Occupancy) : Instr :=
  match r with
  | .identify => .identify tag fields
  | .stateQuery => .stateQuery tag fields
  | .optionSet => .optionSet tag fields
  | .jobOpen => .jobOpen tag fields
  | .jobClose => .jobClose tag fields
  | .jobHold => .jobHold tag fields
  | .jobRelease => .jobRelease tag fields
  | .jobCancel => .jobCancel tag fields
  | .runPost => .runPost tag fields
  | .runWithdraw => .runWithdraw tag fields
  | .stockSet => .stockSet tag fields
  | .wireLoad => .wireLoad tag fields
  | .drawerLock => .drawerLock tag fields
  | .drawerUnlock => .drawerUnlock tag fields
  | .attnClear => .attnClear tag fields
  | .faultClear => .faultClear tag fields
  | .resume => .resume tag fields occ
  | .park => .park tag fields
  | .restart => .restart tag fields

/-- The command that a whole frame's body spells (R156): a request row, or UNKNOWN_KIND. `occ` are the occupancy levels that
RESUME reads. -/
def decodeBody (body : List Byte) (occ : Occupancy) : Instr :=
  match body with
  | k :: tag :: fields =>
    match requestOf k with
    | some r => requestCommand r tag fields occ
    | none => .unknownKind body
  | _ => .unknownKind body

/-- The frame body of a command that is a frame: kind, tag, fields (11 section 11.5); `none` for a command that is no frame. -/
def bodyOf : Instr → Option (List Byte)
  | .unknownKind body => some body
  | .identify tag f => some (requestCode .identify :: tag :: f)
  | .stateQuery tag f => some (requestCode .stateQuery :: tag :: f)
  | .optionSet tag f => some (requestCode .optionSet :: tag :: f)
  | .jobOpen tag f => some (requestCode .jobOpen :: tag :: f)
  | .jobClose tag f => some (requestCode .jobClose :: tag :: f)
  | .jobHold tag f => some (requestCode .jobHold :: tag :: f)
  | .jobRelease tag f => some (requestCode .jobRelease :: tag :: f)
  | .jobCancel tag f => some (requestCode .jobCancel :: tag :: f)
  | .runPost tag f => some (requestCode .runPost :: tag :: f)
  | .runWithdraw tag f => some (requestCode .runWithdraw :: tag :: f)
  | .stockSet tag f => some (requestCode .stockSet :: tag :: f)
  | .wireLoad tag f => some (requestCode .wireLoad :: tag :: f)
  | .drawerLock tag f => some (requestCode .drawerLock :: tag :: f)
  | .drawerUnlock tag f => some (requestCode .drawerUnlock :: tag :: f)
  | .attnClear tag f => some (requestCode .attnClear :: tag :: f)
  | .faultClear tag f => some (requestCode .faultClear :: tag :: f)
  | .resume tag f _ => some (requestCode .resume :: tag :: f)
  | .park tag f => some (requestCode .park :: tag :: f)
  | .restart tag f => some (requestCode .restart :: tag :: f)
  | _ => none

/-- R154: one shift of the CRC-8 with generator x⁸ + x² + x + 1. -/
def crcShift (c : Byte) : Byte :=
  if c.msb then (c <<< 1) ^^^ 0x07 else c <<< 1

/-- R154: the CRC after one more byte. -/
def crcByte (c b : Byte) : Byte :=
  crcShift (crcShift (crcShift (crcShift (crcShift (crcShift (crcShift (crcShift (c ^^^ b))))))))

/-- R154: the check byte over the length byte and the body. -/
def crc8 (bytes : List Byte) : Byte := bytes.foldl crcByte 0

/-- 11 section 11.5: the frame envelope around a body: start, length, body, check. -/
def frameOf (body : List Byte) : List Byte :=
  let n := BitVec.ofNat 8 body.length
  0xA5 :: n :: body ++ [crc8 (n :: body)]

end Sys2Proof
end

