-- ==== Sys2Proof/Machine/State.lean ====
section
/-! DEFINITION. The state of the Fanvoss 4820: every block's records as plain data, the queue of waiting commands, the
reasons a step can stop, and the state right after power-on. -/

namespace Sys2Proof.Machine

/-! ## Job table (01) -/

/-- R132: the part modes. -/
inductive Mode where
  | starting | automatic | parked | waking | service | halted
  deriving DecidableEq, Repr

inductive Priority where
  | normal | urgent
  deriving DecidableEq, Repr

inductive Pattern where
  | none | corner | edge2
  deriving DecidableEq, Repr

inductive DisorderRule where
  | leave | stitch
  deriving DecidableEq, Repr

inductive WireRule where
  | wait | unstitched
  deriving DecidableEq, Repr

inductive JobState where
  | waiting | active | holding | held | closing | finishing | cancelling
  deriving DecidableEq, Repr

/-- The seven unstitched reasons (R81). -/
inductive Reason where
  | foreign | singleSheet | patternNone | disordered | overCapacity | noWire | stitchJam
  deriving DecidableEq, Repr

/-- R3: the sets unstitched, one count for each reason. -/
structure ReasonCounts where
  foreign      : Nat := 0
  singleSheet  : Nat := 0
  patternNone  : Nat := 0
  disordered   : Nat := 0
  overCapacity : Nat := 0
  noWire       : Nat := 0
  stitchJam    : Nat := 0
  deriving DecidableEq, Repr

/-- R3: the tallies of a job. -/
structure Tallies where
  stitched   : Nat := 0
  unstitched : ReasonCounts := {}
  toDrawers  : Nat := 0
  toOverflow : Nat := 0
  empty      : Nat := 0
  voided     : Nat := 0
  deriving DecidableEq, Repr

/-- R2: one entry of a bin list. -/
structure BinEntry where
  bin      : Nat
  released : Bool
  deriving DecidableEq, Repr

/-- 01 section 1.1: a job record. The bin list is empty while the job is WAITING (it is then absent: a granted job has a copy,
so its list is never empty). -/
structure Job where
  number         : Nat
  dest           : Nat
  copies         : Nat
  priority       : Priority
  pattern        : Pattern
  disorder       : DisorderRule
  wireRule       : WireRule
  state          : JobState
  bins           : List BinEntry
  closeRequested : Bool
  tallies        : Tallies
  deriving DecidableEq, Repr

/-- R1, R6: the job records and the bin wait queue (job numbers, head first). -/
structure JobTable where
  jobs  : List Job
  queue : List Nat
  deriving DecidableEq, Repr

/-! ## Run controller (02) -/

/-- R28: the reasons of a run's purged list. -/
inductive PurgeReason where
  | capacity | duplicate | drain | stray
  deriving DecidableEq, Repr

inductive RunState where
  | pending | current | draining | finishing
  deriving DecidableEq, Repr

/-- 02 section 2.1: a run record. The total is the length of `selected` (`Run.total`). -/
structure Run where
  id        : RunId
  job       : Nat
  page      : Nat
  stock     : Nat
  caliper   : Option Nat
  selected  : List Nat
  assigned  : Nat
  deposited : Nat
  purged    : List (Nat × PurgeReason)
  lost      : List Nat
  unprinted : List Nat
  state     : RunState
  deriving DecidableEq, Repr

/-- R20, R21: the two slots, the finishing list and the run identifier counter. -/
structure RunCtl where
  current   : Option Run
  pending   : Option Run
  finishing : List Run
  nextId    : RunId
  deriving DecidableEq, Repr

/-! ## Sort path (03) -/

/-- R46: the run, job, page and copy a ticket names. -/
structure RunRef where
  run  : RunId
  job  : Nat
  page : Nat
  copy : Nat
  deriving DecidableEq, Repr

/-- R46: a ticket's target, with the purge reason where it is PURGE. -/
inductive Target where
  | bin (b : Nat)
  | purge (r : PurgeReason)
  deriving DecidableEq, Repr

/-- R46: a ticket. `ref` is absent for a stray. -/
structure Ticket where
  ordinal  : Count
  ref      : Option RunRef
  target   : Target
  caliper  : Nat
  deadline : Nat
  deriving DecidableEq, Repr

/-- R38: the sheet account. -/
structure Account where
  entered  : Count := 0
  inFlight : Count := 0
  inBins   : Count := 0
  inReturn : Count := 0
  placed   : Count := 0
  purged   : Count := 0
  lost     : Count := 0
  removed  : Count := 0
  deriving DecidableEq, Repr

/-- R38: the gate select output. -/
inductive Gate where
  | released
  | bin (b : Nat)
  | purge
  deriving DecidableEq, Repr

/-- R38: the state of the sort path. `purgeFull` is the level of the purge tray full sensor as noted (R39, R52). -/
structure SortPath where
  tickets    : List Ticket
  entryCount : Count
  unticketed : Nat
  stopped    : Bool
  purgeCount : Nat
  account    : Account
  gate       : Gate
  purgeFull  : Bool
  deriving DecidableEq, Repr

/-! ## Bin tower (04) and stock table (05) -/

/-- R81, R84: a stitch plan. -/
structure Plan where
  stitches : Nat
  h        : Nat
  clinch   : Nat
  wire     : Nat
  reason   : Option Reason
  deriving DecidableEq, Repr

/-- R58: the bin states. -/
inductive BinState where
  | free | assigned | filling | stitchWait | stitching | ejectWait | ejecting | orphan
  deriving DecidableEq, Repr

/-- R59: a set record. The sheets are the length of `pages` (`SetRecord.sheets`). -/
structure SetRecord where
  job           : Option Nat := none
  copy          : Option Nat := none
  pages         : List Nat := []
  stack         : Nat := 0
  inboundSheets : Nat := 0
  inboundMicrons : Nat := 0
  disordered    : Bool := false
  foreign       : Bool := false
  emptied       : Bool := false
  void          : Bool := false
  plan          : Option Plan := none
  made          : Nat := 0
  deriving DecidableEq, Repr

/-- R58: a bin record. A FREE bin holds no set record: its `set` is the blank one. -/
structure Bin where
  state : BinState
  set   : SetRecord
  deriving DecidableEq, Repr

/-- R58: the record of a FREE bin. -/
def Bin.free : Bin := { state := .free, set := {} }

/-- R74: a stock table entry. -/
structure StockEntry where
  defined : Bool
  caliper : Nat
  deriving DecidableEq, Repr

/-! ## Stitching carriage (06) -/

inductive CarriageState where
  | homing | idle | travelling | stitching | stopped
  deriving DecidableEq, Repr

/-- R87: the carriage position. -/
inductive Position where
  | home
  | bin (b : Nat)
  | unknown
  deriving DecidableEq, Repr

inductive HeldCond where
  | taken | interrupted | jammed
  deriving DecidableEq, Repr

/-- R87: the held set and its condition. -/
structure Held where
  bin  : Nat
  cond : HeldCond
  deriving DecidableEq, Repr

/-- R87: the target of a drive. -/
inductive DriveTarget where
  | home
  | bin (b : Nat)
  deriving DecidableEq, Repr

/-- R86, R87: the carriage record and the stitch queue (bins, head first). -/
structure Carriage where
  queue    : List Nat
  state    : CarriageState
  position : Position
  held     : Option Held
  target   : Option DriveTarget
  deadline : Option Nat
  wire     : Nat
  deriving DecidableEq, Repr

/-! ## Return conveyor and overflow tray (07) -/

/-- R100, R111: an entry of the eject queue with its placeability as last tested (`none`: not tested yet). An entry last found
not placeable is held for lack of overflow room. -/
structure EjectEntry where
  bin       : Nat
  placeable : Option Bool
  deriving DecidableEq, Repr

inductive ConvState where
  | idle | slip | carrying | stopped
  deriving DecidableEq, Repr

/-- R101: the header of a trip to the overflow tray. -/
inductive Header where
  | joins | pending | marked | unmarked
  deriving DecidableEq, Repr

/-- R101: the trip record. `dest` is the destination, or `none` for the void mark. -/
structure Trip where
  bin      : Nat
  job      : Option Nat
  copy     : Option Nat
  dest     : Option Nat
  void     : Bool
  sheets   : Nat
  stack    : Nat
  stitches : Nat
  made     : Nat
  reason   : Option Reason
  h        : Nat
  place    : Place
  header   : Option Header
  emptied  : Bool
  proving  : Bool
  deadline : Option Nat
  deriving DecidableEq, Repr

inductive FeederState where
  | idle | feeding
  deriving DecidableEq, Repr

/-- R109: a group of the overflow tray; the key is a destination, or `none` for VOID. -/
structure Group where
  key    : Option Nat
  count  : Nat
  marked : Bool
  deriving DecidableEq, Repr

/-- R109: the overflow tray record. -/
structure Tray where
  sets     : Nat
  stack    : Nat
  heldFull : Bool
  groups   : List Group
  deriving DecidableEq, Repr

/-- R100, R101, R109: the return conveyor. -/
structure Conveyor where
  queue   : List EjectEntry
  state   : ConvState
  trip    : Option Trip
  feeder  : FeederState
  slipLow : Bool
  slipOut : Bool
  tray    : Tray
  deriving DecidableEq, Repr

/-! ## Drawer map (08) -/

inductive DrawerState where
  | unassigned | open | full | closing
  deriving DecidableEq, Repr

/-- R116: a known set count and stack. -/
structure Pile where
  count : Nat
  stack : Nat
  deriving DecidableEq, Repr

/-- R116: a drawer record. `pile` is `none` where set count and stack are UNKNOWN (they are so together). -/
structure Drawer where
  dest    : Option Nat
  state   : DrawerState
  locked  : Bool
  pile    : Option Pile
  awaited : Bool
  deriving DecidableEq, Repr

/-- R129: the nonvolatile copy of one drawer. -/
structure NvCopy where
  dest   : Option Nat
  locked : Bool
  deriving DecidableEq, Repr

/-- R116: the two ways of a row. -/
inductive Way where
  | one | two
  deriving DecidableEq, Repr

/-- R117: the recency tree. `upperPair` names pair 19/20 when set; `second17` names drawer 18 within 17/18 when set;
`second19` names drawer 20 within 19/20 when set. -/
structure Tree where
  upperPair : Bool
  second17  : Bool
  second19  : Bool
  deriving DecidableEq, Repr

/-- R116, R117, R129: the drawer map. -/
structure DrawerMap where
  recs    : Vector Drawer Config.numDrawers
  nv      : Vector NvCopy Config.numDrawers
  markers : Vector Way Config.numRows
  tree    : Tree
  deriving DecidableEq, Repr

/-! ## Mode controller (09) -/

inductive DoorCycle where
  | none | owed | opened
  deriving DecidableEq, Repr

/-- R132: the mode controller. Timers hold their expiry time. -/
structure ModeCtl where
  mode           : Mode
  parkPending    : Bool
  idleTime       : Nat
  idleTimer      : Option Nat
  wakingDeadline : Option Nat
  resumeFlag     : Bool
  doorCycle      : DoorCycle
  doorOpen       : Bool
  keyOn          : Bool
  deriving DecidableEq, Repr

/-! ## Fault and attention (10) -/

/-- 10 section 10.1: the fault kinds. -/
inductive FaultKind where
  | pathJam | pathOverrun | sensorMismatch | purgeFull | earlySheet | stitchJam | conveyorStall | transportSlow | carriageLost
  deriving DecidableEq, Repr

/-- R147: a fault's location. -/
inductive Location where
  | none
  | bin (b : Nat)
  | drawer (d : Nat)
  deriving DecidableEq, Repr

/-- R147: a first fault. Its severity is that of its kind. -/
structure FaultEntry where
  kind     : FaultKind
  location : Location
  job      : Option Nat
  mode     : Mode
  deriving DecidableEq, Repr

inductive FatalAction where
  | halt | restart
  deriving DecidableEq, Repr

/-- R151: the eight attention conditions, in the order of R162. -/
inductive Condition where
  | wireLow | wireOut | slipLow | slipEmpty | overflowFull | straySheet | noticeLost | linkNoise
  deriving DecidableEq, Repr

/-- R147, R149, R151, R153: the fault record, the fatal action, the attention set, the report mask, and the owed ATTN_RAISED
for NOTICE_LOST (with the attention set after its latch). Bits stand as R162 numbers them. -/
structure FaultBlock where
  first       : Option FaultEntry
  later       : Nat
  overwritten : Bool
  fatalAction : FatalAction
  attention   : BitVec 8
  reportMask  : BitVec 8
  owed        : Option (BitVec 8)
  deriving DecidableEq, Repr

/-! ## Notices (R158) -/

inductive JobOutcome where
  | completed | cancelled
  deriving DecidableEq, Repr

/-- R133: the causes of a change of mode. -/
inductive ModeCause where
  | powerOn | restartRequest | selfRestart | started | door | key | fault | resumed | park | idleTime | wake
  | transportReady | fatalFault
  deriving DecidableEq, Repr

/-- R119: the causes of a DRAWER_CHANGED. -/
inductive DrawerCause where
  | allocated | full | closed | collected | locked | unlocked | restored
  deriving DecidableEq, Repr

/-- R119: the contents of a DRAWER_CHANGED. -/
structure DrawerChange where
  drawer : Nat
  dest   : Option Nat
  before : Option Nat
  state  : DrawerState
  locked : Bool
  pile   : Option Pile
  cause  : DrawerCause
  deriving DecidableEq, Repr

/-- R112: the place a SET_PLACED reports. -/
inductive SetPlace where
  | drawer (d : Nat)
  | overflow
  | lostInReturn
  deriving DecidableEq, Repr

/-- R112: the outcome a SET_PLACED reports. -/
inductive SetOutcome where
  | stitched
  | unstitched (r : Reason)
  | void
  deriving DecidableEq, Repr

/-- R112: the contents of a SET_PLACED. -/
structure SetPlaced where
  job     : Option Nat
  copy    : Option Nat
  bin     : Nat
  dest    : Option Nat
  place   : SetPlace
  void    : Bool
  outcome : SetOutcome
  made    : Nat
  h       : Nat
  sheets  : Nat
  header  : Option Header
  deriving DecidableEq, Repr

/-- R148: the effect of a fault on the record. -/
inductive FaultEffect where
  | first | overwrote | counted
  deriving DecidableEq, Repr

/-- The notices (11 section 11.5). -/
inductive Notice where
  /-- R8 -/
  | jobReady (job copies : Nat) (bins : List Nat)
  /-- R12, R13 -/
  | jobHeld (job : Nat)
  /-- R19 -/
  | jobDone (job : Nat) (outcome : JobOutcome) (copies : Nat) (tallies : Tallies)
  /-- R30 -/
  | runDone (run : RunId) (job page total deposited : Nat) (purged : List (Nat × PurgeReason)) (lost unprinted : List Nat)
  /-- R55 -/
  | pathLoss (lost : List (RunRef × Target)) (strays unticketed : Nat) (before : Mode)
  /-- R112 -/
  | setPlaced (p : SetPlaced)
  /-- R119 -/
  | drawerChanged (c : DrawerChange)
  /-- R133 -/
  | modeNow (mode : Mode) (before : Option Mode) (cause : ModeCause) (fault : Option FaultKind) (doorOpen keyOn : Bool)
  /-- R151 -/
  | attnRaised (c : Condition) (set : BitVec 8)
  /-- R148 -/
  | faultNote (f : FaultEntry) (effect : FaultEffect)
  deriving DecidableEq, Repr

/-! ## Answers (R156, R157) -/

/-- R157: the result codes. -/
inductive Result where
  | ok | okAdjusted | okDeferred
  | unknownKind | badLength | badField | wrongMode | tableFull | jobExists | noSuchJob | jobState | slotsFull | doorOpen
  | pathNotCleared | drawerBusy | notFlexible | stockUndefined
  deriving DecidableEq, Repr

inductive Slot where
  | current | pending
  deriving DecidableEq, Repr

/-- R114: the conveyor check's finding. -/
inductive Finding where
  | noTrip | slipResumed | proving | setTaken
  deriving DecidableEq, Repr

/-- R139: the carriage's settlement of its held set. -/
inductive Settlement where
  | none | givenUp | returned
  deriving DecidableEq, Repr

/-- R86: an entry of the stitch queue as a query shows it. -/
structure StitchView where
  bin      : Nat
  job      : Option Nat
  priority : Priority
  stitches : Nat
  made     : Nat
  h        : Nat
  need     : Nat
  deriving DecidableEq, Repr

/-- R100: an entry of the eject queue as a query shows it; `dest` is `none` for the void mark. -/
structure EjectView where
  bin       : Nat
  job       : Option Nat
  copy      : Option Nat
  dest      : Option Nat
  stack     : Nat
  placeable : Option Bool
  deriving DecidableEq, Repr

/-- R118: what a label display shows. -/
structure Label where
  dest : Option Nat
  full : Bool
  lock : Bool
  deriving DecidableEq, Repr

/-- R131: the recency state shown with a drawer. -/
inductive RecencyView where
  | marker (w : Way)
  | tree (t : Tree)
  deriving DecidableEq, Repr

/-- R151: the five levels. -/
structure Levels where
  wireLow      : Bool
  wireOut      : Bool
  slipLow      : Bool
  slipEmpty    : Bool
  overflowFull : Bool
  deriving DecidableEq, Repr

/-- R161: the contents a STATE_QUERY returns, by subject. -/
inductive Contents where
  | part (ctl : ModeCtl) (stock : List StockEntry) (carriage : CarriageState) (position : Position) (held : Option Held)
      (wire : Nat) (queue : List StitchView)
  | job (j : Job)
  | bin (state : BinState) (set : Option SetRecord)
  | drawer (d : Drawer) (label : Label) (recency : RecencyView)
  | overflow (queue : List EjectView) (state : ConvState) (trip : Option Trip) (feeder : FeederState) (slipLow slipOut : Bool)
      (tray : Tray)
  | runs (current pending : Option Run) (finishing : List Run)
  | fault (first : Option FaultEntry) (later : Nat) (overwritten : Bool) (action : FatalAction) (doorCycle : DoorCycle)
  | attention (set mask : BitVec 8) (levels : Levels) (owed : Bool)
  | account (a : Account) (purgeCount unticketed : Nat) (stopped : Bool) (tickets : List Ticket)
  | link (waiting noise overrun notices : Nat) (seq : Byte)
  deriving DecidableEq, Repr

/-- 11 section 11.5: the result fields of an accepted request. -/
inductive ReplyFields where
  | empty
  | identity (vendor part revision bins drawers : Nat)
  | contents (c : Contents)
  | option (code value : Nat)
  | withdrawn (run : Option RunId)
  | posted (run : RunId) (slot : Slot) (total : Nat)
  | cut (slot : Slot) (total moved : Nat)
  | caliper (stored : Nat) (slotFlag : Bool)
  | wire (stored : Nat)
  | attention (before after : BitVec 8)
  | fault (first : Option FaultEntry) (later : Nat) (overwritten : Bool)
  | resumed (emptied foreign orphan freed : Nat) (finding : Finding) (settlement : Settlement)
  deriving DecidableEq, Repr

/-- R156: an answer: the kind and the tag of its request, a result code, and the result fields. -/
structure Answer where
  kind   : Byte
  tag    : Byte
  result : Result
  fields : ReplyFields
  deriving DecidableEq, Repr

/-! ## Press link (11) -/

/-- R154: what the receiver waits for: a start byte; the length byte; or, of a frame of `n` body bytes, the rest of the body
and the check byte (`got`: the body bytes received). -/
inductive Rx where
  | idle
  | length
  | body (n : Nat) (got : List Byte)
  deriving DecidableEq, Repr

/-- A numbered notice (R158). -/
structure Numbered where
  seq    : Byte
  notice : Notice
  deriving DecidableEq, Repr

/-- R158: the frame in transmission. -/
inductive Sent where
  | answer (a : Answer)
  | notice (n : Numbered)
  deriving DecidableEq, Repr

/-- R154 to R159: the press link. A buffered frame is its body: kind, tag, fields. -/
structure Link where
  rx      : Rx
  buffer  : List (List Byte)
  answer  : Option Answer
  sending : Option Sent
  outbox  : List Numbered
  noise   : Nat
  overrun : Nat
  seq     : Byte
  deriving DecidableEq, Repr

/-! ## The part -/

/-- What the act in progress hands to the press link: whether the link is reset (R159), and the notices made, oldest first, not
yet offered to the outbox (R155). Empty between steps (notes/assumptions/6.md). -/
structure Out where
  reset   : Bool
  notices : List Notice
  deriving DecidableEq, Repr

/-- Every block but the press link. `now` is the clock of the deadlines in milliseconds (notes/assumptions/3.md). -/
structure Part where
  now      : Nat
  lines    : Lines
  ctl      : ModeCtl
  jobs     : JobTable
  runs     : RunCtl
  path     : SortPath
  bins     : Vector Bin Config.numBins
  stock    : Vector StockEntry Config.numStocks
  carriage : Carriage
  conv     : Conveyor
  drawers  : DrawerMap
  faults   : FaultBlock
  out      : Out
  deriving DecidableEq, Repr

end Sys2Proof.Machine

namespace Sys2Proof

/-- The lines of a part at rest: nothing occupied, trays below their marks, door closed, key off (notes/assumptions/4.md). -/
def Lines.atRest : Lines :=
  { occ := { bins := 0, drawers := 0, overflow := false }
    purgeFull := false, slipLow := false, slipOut := false, doorOpen := false, keyOn := false }

end Sys2Proof

namespace Sys2Proof.Machine

/-- The machine: the part's blocks, the press link, and the commands that wait, first in, first out. -/
structure State where
  part    : Part
  link    : Link
  pending : List Instr
  deriving DecidableEq, Repr

/-- Why a step stops with a fault: a command that no sender can send. -/
inductive Fault where
  /-- An event names a bin outside 1 to 48; raised by DEPOSIT, BIN_EMPTIED and CARRIAGE_AT. Safe: no such sensor exists. -/
  | noSuchBin (b : Nat)
  /-- An event names a drawer outside 1 to 20; raised by ARRIVAL and COLLECTED. Safe: no such sensor exists. -/
  | noSuchDrawer (d : Nat)
  deriving DecidableEq, Repr

/-- Why a step refuses. -/
inductive Refusal where
  /-- The command has no meaning in the model yet. No arm of `exec` answers it now. Safe. -/
  | notModelled (mnemonic : String)
  deriving DecidableEq, Repr

/-! ## Power-on -/

/-- R130: the record of an unassigned drawer sensed empty. -/
def Drawer.unassigned : Drawer :=
  { dest := none, state := .unassigned, locked := false, pile := some { count := 0, stack := 0 }, awaited := false }

/-- The machine right after power-on (R134) of a new part (R129) whose lines are at rest: STARTING, the carriage homing, every
other block at its power-on values (the table of R144), the first MODE_NOW in transmission and the twenty DRAWER_CHANGED of the
restore waiting behind it. -/
def State.reset : State where
  part :=
    { now := 0
      lines := Lines.atRest
      ctl :=
        { mode := .starting, parkPending := false, idleTime := 600, idleTimer := none, wakingDeadline := none
          resumeFlag := false, doorCycle := .none, doorOpen := false, keyOn := false }
      jobs := { jobs := [], queue := [] }
      runs := { current := none, pending := none, finishing := [], nextId := 0 }
      path :=
        { tickets := [], entryCount := 0, unticketed := 0, stopped := false, purgeCount := 0, account := {}
          gate := .released, purgeFull := false }
      bins := Vector.replicate _ Bin.free
      stock := (Vector.replicate _ { defined := false, caliper := 0 }).set 0 { defined := true, caliper := 100 }
      carriage :=
        { queue := [], state := .homing, position := .unknown, held := none, target := some .home
          deadline := some 6000, wire := 0 }
      conv :=
        { queue := [], state := .idle, trip := none, feeder := .idle, slipLow := false, slipOut := false
          tray := { sets := 0, stack := 0, heldFull := false, groups := [] } }
      drawers :=
        { recs := Vector.replicate _ Drawer.unassigned
          nv := Vector.replicate _ { dest := none, locked := false }
          markers := Vector.replicate _ .one
          tree := { upperPair := false, second17 := false, second19 := false } }
      faults :=
        { first := none, later := 0, overwritten := false, fatalAction := .halt, attention := 0, reportMask := 0xFF
          owed := none }
      out := { reset := false, notices := [] } }
  link :=
    { rx := .idle, buffer := [], answer := none
      sending := some (.notice { seq := 0, notice := .modeNow .starting none .powerOn none false false })
      outbox := (List.range Config.numDrawers).map fun i =>
        { seq := BitVec.ofNat 8 (i + 1)
          notice := .drawerChanged
            { drawer := i + 1, dest := none, before := none, state := .unassigned, locked := false
              pile := some { count := 0, stack := 0 }, cause := .restored } }
      noise := 0, overrun := 0, seq := 21 }
  pending := []

end Sys2Proof.Machine
end

