-- ==== Sys2Proof/Machine/Operands.lean ====
section
/-! DEFINITION. The operand forms: the fields of request bodies read and written (11 section 11.5), and the byte layouts of the
answers and of SET_PLACED. -/

namespace Sys2Proof.Machine

/-! ## Reading fields -/

/-- The byte at position `i` of the fields. -/
def byteAt (f : List Byte) (i : Nat) : Nat := (f.getD i 0).toNat

/-- A two-byte field, least significant byte first (00 section 5.4). -/
def wordAt (f : List Byte) (i : Nat) : Nat := byteAt f i + 256 * byteAt f (i + 1)

/-- A four-byte field, least significant byte first (00 section 5.4). -/
def longAt (f : List Byte) (i : Nat) : Nat := wordAt f i + 65536 * wordAt f (i + 2)

/-- R156 check 4: the length of the fields against the table of request bodies. -/
def lengthOk (r : RequestKind) (f : List Byte) : Bool :=
  match r with
  | .identify | .faultClear | .resume | .park | .restart => f.length == 0
  | .stateQuery | .optionSet | .stockSet | .drawerLock => f.length == 3
  | .jobOpen => f.length == 9
  | .jobClose | .jobHold | .jobRelease | .jobCancel => f.length == 2
  | .runPost => 6 ≤ f.length && f.length == 6 + byteAt f 5
  | .runWithdraw | .drawerUnlock => f.length == 1
  | .wireLoad => f.length == 4
  | .attnClear => 1 ≤ f.length && f.length == 1 + byteAt f 0

def priorityOf : Nat → Option Priority
  | 0 => some .normal
  | 1 => some .urgent
  | _ => none

def patternOf : Nat → Option Pattern
  | 0 => some .none
  | 1 => some .corner
  | 2 => some .edge2
  | _ => none

def disorderOf : Nat → Option DisorderRule
  | 0 => some .leave
  | 1 => some .stitch
  | _ => none

def wireRuleOf : Nat → Option WireRule
  | 0 => some .wait
  | 1 => some .unstitched
  | _ => none

/-- The conditions numbered as R162 numbers them. -/
def conditionOf : Nat → Option Condition
  | 0 => some .wireLow
  | 1 => some .wireOut
  | 2 => some .slipLow
  | 3 => some .slipEmpty
  | 4 => some .overflowFull
  | 5 => some .straySheet
  | 6 => some .noticeLost
  | 7 => some .linkNoise
  | _ => none

/-- The fields of a JOB_OPEN (11 section 11.5, bytes 4 to 12). -/
structure JobOpenFields where
  number   : Nat
  dest     : Nat
  copies   : Nat
  priority : Nat
  pattern  : Nat
  disorder : Nat
  wireRule : Nat
  deriving DecidableEq, Repr

def jobOpenFields (f : List Byte) : JobOpenFields :=
  { number := wordAt f 0, dest := wordAt f 2, copies := byteAt f 4, priority := byteAt f 5, pattern := byteAt f 6
    disorder := byteAt f 7, wireRule := byteAt f 8 }

/-- The fields of a RUN_POST (11 section 11.5, bytes 4 to 9 + k). -/
structure RunPostFields where
  job    : Nat
  page   : Nat
  stock  : Nat
  form   : Nat
  count  : Nat
  copies : List Nat
  deriving DecidableEq, Repr

def runPostFields (f : List Byte) : RunPostFields :=
  { job := wordAt f 0, page := byteAt f 2, stock := byteAt f 3, form := byteAt f 4, count := byteAt f 5
    copies := (f.drop 6).map BitVec.toNat }

/-- The conditions an ATTN_CLEAR names, as sent. -/
def attnCodes (f : List Byte) : List Nat := (f.drop 1).map BitVec.toNat

/-! ## Writing fields -/

/-- A two-byte field, least significant byte first. -/
def putWord (n : Nat) : List Byte := [BitVec.ofNat 8 n, BitVec.ofNat 8 (n / 256)]

/-- A four-byte field, least significant byte first. -/
def putLong (n : Nat) : List Byte := putWord n ++ putWord (n / 65536)

def putByte (n : Nat) : List Byte := [BitVec.ofNat 8 n]

def putFlag (b : Bool) : List Byte := [if b then 1 else 0]

def JobOpenFields.bytes (j : JobOpenFields) : List Byte :=
  putWord j.number ++ putWord j.dest ++ putByte j.copies ++ putByte j.priority ++ putByte j.pattern ++ putByte j.disorder
    ++ putByte j.wireRule

def RunPostFields.bytes (r : RunPostFields) : List Byte :=
  putWord r.job ++ putByte r.page ++ putByte r.stock ++ putByte r.form ++ putByte r.count
    ++ r.copies.map (BitVec.ofNat 8)

/-! ## Codes and byte layouts of answers and notices -/

/-- R157. -/
def resultCode : Result → Nat
  | .ok => 0
  | .okAdjusted => 1
  | .okDeferred => 2
  | .unknownKind => 16
  | .badLength => 17
  | .badField => 18
  | .wrongMode => 19
  | .tableFull => 20
  | .jobExists => 21
  | .noSuchJob => 22
  | .jobState => 23
  | .slotsFull => 24
  | .doorOpen => 25
  | .pathNotCleared => 26
  | .drawerBusy => 27
  | .notFlexible => 28
  | .stockUndefined => 29

/-- R157: codes 0 to 2 mean the request was accepted. -/
def accepted (r : Result) : Bool := resultCode r ≤ 2

def faultKindCode : FaultKind → Nat
  | .pathJam => 0
  | .pathOverrun => 1
  | .sensorMismatch => 2
  | .purgeFull => 3
  | .earlySheet => 4
  | .stitchJam => 5
  | .conveyorStall => 6
  | .transportSlow => 7
  | .carriageLost => 8

/-- 10 section 10.1: CARRIAGE_LOST is the fatal kind. -/
def isFatal : FaultKind → Bool
  | .carriageLost => true
  | _ => false

def modeCode : Mode → Nat
  | .starting => 0
  | .automatic => 1
  | .parked => 2
  | .waking => 3
  | .service => 4
  | .halted => 5

def findingCode : Finding → Nat
  | .noTrip => 0
  | .slipResumed => 1
  | .proving => 2
  | .setTaken => 3

def settlementCode : Settlement → Nat
  | .none => 0
  | .givenUp => 1
  | .returned => 2

def slotCode : Slot → Nat
  | .current => 0
  | .pending => 1

/-- 11 section 11.5: location kind and location. -/
def locationBytes : Location → List Byte
  | .none => [0, 0]
  | .bin b => 1 :: putByte b
  | .drawer d => 2 :: putByte d

/-- 11 section 11.5: the fault record as FAULT_CLEAR returns it. -/
def faultBytes (first : Option FaultEntry) (later : Nat) (overwritten : Bool) : List Byte :=
  (match first with
    | none => [0, 0, 0, 0, 0, 0, 0, 0]
    | some e =>
      1 :: putByte (faultKindCode e.kind) ++ putFlag (isFatal e.kind) ++ locationBytes e.location
        ++ putWord (e.job.getD 0) ++ putByte (modeCode e.mode))
    ++ putByte later ++ putFlag overwritten

/-- The bytes of the result fields, where 11 section 11.5 lays them out; `none` for the contents of a STATE_QUERY, whose bytes
no rule gives (notes/assumptions/22.md). -/
def replyBytes : ReplyFields → Option (List Byte)
  | .empty => some []
  | .identity vendor part revision bins drawers =>
    some (putWord vendor ++ putWord part ++ putByte revision ++ putByte bins ++ putByte drawers)
  | .contents _ => none
  | .option code value => some (putByte code ++ putWord value)
  | .withdrawn none => some [0, 0]
  | .withdrawn (some r) => some [1, r]
  | .posted run slot total => some (run :: putByte (slotCode slot) ++ putByte total)
  | .cut slot total moved => some (putByte (slotCode slot) ++ putByte total ++ putByte moved)
  | .caliper stored flag => some (putWord stored ++ putFlag flag)
  | .wire stored => some (putLong stored)
  | .attention before after => some [before, after]
  | .fault first later overwritten => some (faultBytes first later overwritten)
  | .resumed e f o r finding settlement =>
    some (putByte e ++ putByte f ++ putByte o ++ putByte r ++ putByte (findingCode finding)
      ++ putByte (settlementCode settlement))

/-- 11 section 11.5: the body of an ANSWER. -/
def answerBody (a : Answer) : Option (List Byte) :=
  (replyBytes a.fields).map fun f => 0x80 :: a.tag :: a.kind :: putByte (resultCode a.result) ++ f

def reasonCode : Reason → Nat
  | .foreign => 1
  | .singleSheet => 2
  | .patternNone => 3
  | .disordered => 4
  | .overCapacity => 5
  | .noWire => 6
  | .stitchJam => 7

def outcomeCode : SetOutcome → Nat
  | .stitched => 0
  | .unstitched r => reasonCode r
  | .void => 8

def setPlaceCode : SetPlace → Nat
  | .drawer d => d
  | .overflow => 21
  | .lostInReturn => 22

/-- 11 section 11.5: header 0 absent, 1 JOINS, 2 MARKED, 3 UNMARKED. A placed set's header is never PENDING. -/
def headerCode : Option Header → Nat
  | none => 0
  | some .joins => 1
  | some .marked => 2
  | some .unmarked => 3
  | some .pending => 0

/-- 11 section 11.5: the body of a SET_PLACED with its sequence number. -/
def setPlacedBody (seq : Byte) (p : SetPlaced) : List Byte :=
  0x86 :: seq :: putWord (p.job.getD 0) ++ putByte (p.copy.getD 0) ++ putByte p.bin ++ putWord (p.dest.getD 0)
    ++ putByte (setPlaceCode p.place) ++ putFlag p.void ++ putByte (outcomeCode p.outcome) ++ putByte p.made ++ putByte p.h
    ++ putByte p.sheets ++ putByte (headerCode p.header)

/-- 11 section 11.5: the kind byte of a notice. -/
def noticeKind : Notice → Byte
  | .jobReady .. => 0x81
  | .jobHeld .. => 0x82
  | .jobDone .. => 0x83
  | .runDone .. => 0x84
  | .pathLoss .. => 0x85
  | .setPlaced .. => 0x86
  | .drawerChanged .. => 0x87
  | .modeNow .. => 0x88
  | .attnRaised .. => 0x89
  | .faultNote .. => 0x8A

end Sys2Proof.Machine
end

