-- ==== Sys2Proof/Machine/Stack.lean ====
section
/-! DEFINITION. Stack arithmetic (05): the acceptance sums, the stitch plan, leg length, clinch class and wire need, and the
fixed limits and times of the part. -/

namespace Sys2Proof.Machine

/-! ## Limits (R78 to R80) and times -/

def binSheetLimit : Nat := 60
def binStackLimit : Nat := 7000
def drawerSetLimit : Nat := 20
def drawerStackLimit : Nat := 40000
def traySetLimit : Nat := 80
def trayStackLimit : Nat := 120000
/-- R80, R104: the thickness of a header slip. -/
def slipMicrons : Nat := 150
/-- R95: the most wire remaining holds. -/
def wireLimit : Nat := 9999999
/-- R96: WIRE_LOW's level. -/
def wireLowMark : Nat := 5000
/-- R46, R51. -/
def ticketTime : Nat := 1500
/-- R90. -/
def travelTime : Nat := 3000
/-- R91. -/
def cycleTime : Nat := 800
/-- R94. -/
def homingTime : Nat := 6000
/-- R104. -/
def slipTime : Nat := 1000
/-- R105. -/
def carryTime : Nat := 5000
/-- R142. -/
def wakingTime : Nat := 4000

/-- R38: the ticket queue holds at most 5 tickets. -/
def ticketLimit : Nat := 5
/-- R1. -/
def jobLimit : Nat := 16
/-- R155. -/
def bufferLimit : Nat := 2
/-- R158. -/
def outboxLimit : Nat := 32

/-- A value clamped between two bounds. -/
def clamp (lo hi n : Nat) : Nat := min hi (max lo n)

/-- R59: the recorded sheets. -/
def SetRecord.sheets (s : SetRecord) : Nat := s.pages.length

/-! ## Acceptance sums -/

/-- R78: a bin's sums with a sheet of caliper `c` offered. -/
def binAccepts (s : SetRecord) (c : Nat) : Bool :=
  s.sheets + s.inboundSheets + 1 ≤ binSheetLimit && s.stack + s.inboundMicrons + c ≤ binStackLimit

/-- R79: a drawer's sums with a set of stack `t` offered. -/
def pileAccepts (p : Option Pile) (t : Nat) : Bool :=
  match p with
  | none => false
  | some p => p.count + 1 ≤ drawerSetLimit && p.stack + t ≤ drawerStackLimit

/-- R104: a slip is needed when the group list is empty or its last key differs. -/
def slipNeeded (groups : List Group) (key : Option Nat) : Bool :=
  match groups.getLast? with
  | none => true
  | some g => g.key != key

/-- R80: the overflow tray's sums with a set of stack `t` and group key `key` offered. -/
def trayAccepts (tr : Tray) (key : Option Nat) (t : Nat) : Bool :=
  !tr.heldFull && tr.sets + 1 ≤ traySetLimit
    && tr.stack + t + (if slipNeeded tr.groups key then slipMicrons else 0) ≤ trayStackLimit

/-! ## The stitch plan -/

/-- R81: the first reason that applies to a set of `m` sheets and stack `t`. -/
def unstitchedReason (m t : Nat) (foreign disordered : Bool) (pattern : Pattern) (rule : DisorderRule) : Option Reason :=
  if foreign then some .foreign
  else if m = 1 then some .singleSheet
  else if pattern = .none then some .patternNone
  else if disordered && rule = .leave then some .disordered
  else if m > 50 || t > 5500 then some .overCapacity
  else none

/-- R82: the leg length in half-millimetres. -/
def legLength (t : Nat) : Nat := clamp 8 16 ((t + 2500 + 499) / 500)

/-- R83: the clinch class. -/
def clinchClass (t : Nat) : Nat :=
  if t ≤ 1000 then 1 else if t ≤ 2500 then 2 else if t ≤ 4000 then 3 else 4

/-- R81: the stitches of a pattern. -/
def patternStitches : Pattern → Nat
  | .none => 0
  | .corner => 1
  | .edge2 => 2

/-- R91: the wire of one stitch of leg length `h`. -/
def stitchWire (h : Nat) : Nat := 12 + h

/-- R67: the void plan. -/
def voidPlan : Plan := { stitches := 0, h := 0, clinch := 0, wire := 0, reason := none }

/-- R81 to R84: the stitch plan of a completed set. -/
def stitchPlan (m t : Nat) (foreign disordered : Bool) (pattern : Pattern) (rule : DisorderRule) : Plan :=
  match unstitchedReason m t foreign disordered pattern rule with
  | some r => { stitches := 0, h := 0, clinch := 0, wire := 0, reason := some r }
  | none =>
    let n := patternStitches pattern
    let h := legLength t
    { stitches := n, h := h, clinch := clinchClass t, wire := n * stitchWire h, reason := none }

/-- The plan of a set, the void plan standing for one not yet planned (R59: the plan is absent until the set is complete). -/
def SetRecord.planned (s : SetRecord) : Plan := s.plan.getD voidPlan

/-- R86: the remaining need of a set. -/
def SetRecord.need (s : SetRecord) : Nat := s.planned.wire - s.made * stitchWire s.planned.h

/-- R112: the outcome a set is reported with. -/
def setOutcome (void : Bool) (reason : Option Reason) : SetOutcome :=
  if void then .void
  else match reason with
    | some r => .unstitched r
    | none => .stitched

end Sys2Proof.Machine
end

