-- ==== Sys2Proof/Machine/Ops.lean ====
section
/-! DEFINITION. The named operations over the part's records: bins, jobs, runs, drawers, stocks, the sheet account, the notices
of an act, the deadlines. Every read and write of a record goes through these. -/

namespace Sys2Proof

/-- The occupancy sensor of bin `b`, 1 to 48, as it stands. -/
def Lines.binOccupied (l : Lines) (b : Nat) : Bool := l.occ.bins.getLsbD (b - 1)

/-- The occupancy sensor of drawer `d`, 1 to 20, as it stands. -/
def Lines.drawerOccupied (l : Lines) (d : Nat) : Bool := l.occ.drawers.getLsbD (d - 1)

/-- The occupancy sensor of bin `b` goes empty. -/
def Lines.clearBin (l : Lines) (b : Nat) : Lines :=
  { l with occ := { l.occ with bins := l.occ.bins &&& ~~~(1#48 <<< (b - 1)) } }

/-- The occupancy sensor of drawer `d` goes empty. -/
def Lines.clearDrawer (l : Lines) (d : Nat) : Lines :=
  { l with occ := { l.occ with drawers := l.occ.drawers &&& ~~~(1#20 <<< (d - 1)) } }

end Sys2Proof

namespace Sys2Proof.Machine

/-- The bins, lowest first (R58). -/
def allBins : List Nat := List.range' 1 Config.numBins

/-- The drawers in drawer order (R116). -/
def allDrawers : List Nat := List.range' 1 Config.numDrawers

/-! ## Notices and the clock -/

/-- A notice is made by the act in progress. It is offered to the outbox when the act is done (R155). -/
def Part.raise (p : Part) (n : Notice) : Part :=
  { p with out := { p.out with notices := p.out.notices ++ [n] } }

/-- A deadline expires: the clock has reached its expiry time (notes/assumptions/3.md). -/
def Part.reach (p : Part) (t : Nat) : Part := { p with now := max p.now t }

/-! ## Bins (R58, R59) -/

/-- The record of bin `b`; a number that names no bin reads as FREE. -/
def Part.bin (p : Part) (b : Nat) : Bin :=
  if h : 1 ≤ b ∧ b ≤ Config.numBins then p.bins[b - 1]'(by omega) else Bin.free

/-- Write the record of bin `b`; a number that names no bin writes nothing. -/
def Part.setBin (p : Part) (b : Nat) (r : Bin) : Part :=
  if h : 1 ≤ b ∧ b ≤ Config.numBins then { p with bins := p.bins.set (b - 1) r (by omega) } else p

/-- Change the set record of bin `b`. -/
def Part.modSet (p : Part) (b : Nat) (f : SetRecord → SetRecord) : Part :=
  p.setBin b { p.bin b with set := f (p.bin b).set }

/-- Move bin `b` to another state. -/
def Part.setBinState (p : Part) (b : Nat) (st : BinState) : Part :=
  p.setBin b { p.bin b with state := st }

/-- Bin `b` exists and is FREE. -/
def Part.isFree (p : Part) (b : Nat) : Bool := binOk b && (p.bin b).state == .free

/-- The FREE bins, lowest first (R7, R8). -/
def Part.freeBins (p : Part) : List Nat := allBins.filter p.isFree

/-- The job number of the set in bin `b`, or none (R48). -/
def Part.binJob (p : Part) (b : Nat) : Option Nat := (p.bin b).set.job

/-- The occupancy sensors are sampled (notes/assumptions/2.md). -/
def Part.sample (p : Part) (occ : Occupancy) : Part := { p with lines := { p.lines with occ := occ } }

/-! ## Jobs (R1 to R3) -/

/-- The record of a job number. -/
def Part.job? (p : Part) (n : Nat) : Option Job := p.jobs.jobs.find? fun j => j.number == n

/-- Change the record of a job number. -/
def Part.modJob (p : Part) (n : Nat) (f : Job → Job) : Part :=
  { p with jobs := { p.jobs with jobs := p.jobs.jobs.map fun j => if j.number = n then f j else j } }

/-- Change the record of a set's job, if it has one. -/
def Part.modJobOf (p : Part) (n : Option Nat) (f : Job → Job) : Part :=
  match n with
  | some n => p.modJob n f
  | none => p

/-- Free the record of a job number (R1). -/
def Part.dropJob (p : Part) (n : Nat) : Part :=
  { p with jobs := { p.jobs with jobs := p.jobs.jobs.filter fun j => j.number ≠ n } }

/-- Put a job in a state. -/
def Part.setJobState (p : Part) (n : Nat) (st : JobState) : Part := p.modJob n fun j => { j with state := st }

/-- Change a job's tallies (R3). -/
def Job.tally (j : Job) (f : Tallies → Tallies) : Job := { j with tallies := f j.tallies }

/-- R3: raise the empty sets tally. -/
def Tallies.addEmpty (t : Tallies) : Tallies := { t with empty := t.empty + 1 }

/-- R3: raise the voided sets tally. -/
def Tallies.addVoided (t : Tallies) : Tallies := { t with voided := t.voided + 1 }

/-- R3, R71: lower the voided sets tally. -/
def Tallies.dropVoided (t : Tallies) : Tallies := { t with voided := t.voided - 1 }

/-- R3: raise the count of one unstitched reason. -/
def ReasonCounts.add (c : ReasonCounts) : Reason → ReasonCounts
  | .foreign => { c with foreign := c.foreign + 1 }
  | .singleSheet => { c with singleSheet := c.singleSheet + 1 }
  | .patternNone => { c with patternNone := c.patternNone + 1 }
  | .disordered => { c with disordered := c.disordered + 1 }
  | .overCapacity => { c with overCapacity := c.overCapacity + 1 }
  | .noWire => { c with noWire := c.noWire + 1 }
  | .stitchJam => { c with stitchJam := c.stitchJam + 1 }

/-- R3: the tallies raised at an arrival of a set with an outcome at a place. -/
def Tallies.addArrival (t : Tallies) (outcome : SetOutcome) (place : Place) : Tallies :=
  let t := match outcome with
    | .stitched => { t with stitched := t.stitched + 1 }
    | .unstitched r => { t with unstitched := t.unstitched.add r }
    | .void => t
  match place with
  | .drawer _ => { t with toDrawers := t.toDrawers + 1 }
  | .overflow => { t with toOverflow := t.toOverflow + 1 }

/-- R2: mark the entry of bin `b` released. -/
def Job.release (j : Job) (b : Nat) : Job :=
  { j with bins := j.bins.map fun e => if e.bin = b then { e with released := true } else e }

/-- R2: every entry of the bin list is released. -/
def Job.allReleased (j : Job) : Bool := j.bins.all fun e => e.released

/-- R2: the bins a job holds, in ascending order. -/
def Job.heldBins (j : Job) : List Nat := allBins.filter fun b => j.bins.any fun e => e.bin == b && !e.released

/-- R2: the bin that holds copy `k`; 0, which names no bin, where the list has no such entry (notes/assumptions/21.md). -/
def Job.binOfCopy (j : Job) (k : Nat) : Nat := ((j.bins[k - 1]?).map BinEntry.bin).getD 0

/-- The priority of the job of bin `b`'s set (R86). -/
def Part.priorityOf (p : Part) (b : Nat) : Priority :=
  (((p.binJob b).bind p.job?).map Job.priority).getD .normal

/-- The wire rule of the job of bin `b`'s set, read from the job record (R88). -/
def Part.wireRuleOf (p : Part) (b : Nat) : WireRule :=
  (((p.binJob b).bind p.job?).map Job.wireRule).getD .wait

/-- The destination of the set in bin `b`, or none for the void mark (R101, R104: it is the set's group key too). -/
def Part.destOf (p : Part) (b : Nat) : Option Nat :=
  if (p.bin b).set.void then none else ((p.binJob b).bind p.job?).map Job.dest

/-! ## Runs (R20 to R22) -/

/-- 02 section 2.1: the total of a run is the length of its selected-copy list. -/
def Run.total (r : Run) : Nat := r.selected.length

/-- The live runs (R20). -/
def RunCtl.live (r : RunCtl) : List Run := r.current.toList ++ r.pending.toList ++ r.finishing

/-- R20: the first identifier from the counter on that no live run holds. -/
def RunCtl.takeId (r : RunCtl) : RunId :=
  (((List.range 256).map fun k => r.nextId + BitVec.ofNat 8 k).find? fun i => r.live.all fun q => q.id ≠ i).getD r.nextId

/-- R22: a run of the job stands in a slot or on the finishing list. -/
def Part.workInHand (p : Part) (n : Nat) : Bool := p.runs.live.any fun r => r.job == n

/-- R17: the CURRENT slot or the finishing list holds a run of the job. -/
def Part.hasStartedRun (p : Part) (n : Nat) : Bool :=
  (p.runs.current.toList ++ p.runs.finishing).any fun r => r.job == n

/-- A ticket names the run. -/
def Part.ticketNames (p : Part) (id : RunId) : Bool :=
  p.path.tickets.any fun t => (t.ref.map RunRef.run) == some id

/-- Change the run of an identifier, in the CURRENT slot or on the finishing list (R28). -/
def Part.modRun (p : Part) (id : RunId) (f : Run → Run) : Part :=
  let g := fun r : Run => if r.id = id then f r else r
  { p with runs := { p.runs with current := p.runs.current.map g, finishing := p.runs.finishing.map g } }

/-! ## Stock table (R74) -/

/-- The stock entry of a code; a code above 7 reads as undefined. -/
def Part.stockAt (p : Part) (c : Nat) : StockEntry :=
  if h : c < Config.numStocks then p.stock[c] else { defined := false, caliper := 0 }

/-- Define the stock entry of a code (R75). -/
def Part.setStock (p : Part) (c : Nat) (e : StockEntry) : Part :=
  if h : c < Config.numStocks then { p with stock := p.stock.set c e } else p

/-! ## Sort path (R38, R56) -/

/-- Change the sheet account (R56). -/
def Part.modAccount (p : Part) (f : Account → Account) : Part :=
  { p with path := { p.path with account := f p.path.account } }

/-- R40: a sheet is entered; its entry ordinal is the new count. -/
def Part.enterSheet (p : Part) : Part :=
  { p with path := { p.path with
      entryCount := p.path.entryCount + 1
      account := { p.path.account with entered := p.path.account.entered + 1 } } }

/-- R56: in_bins to in_return. -/
def Account.binsToReturn (a : Account) (m : Nat) : Account :=
  { a with inBins := a.inBins - BitVec.ofNat 32 m, inReturn := a.inReturn + BitVec.ofNat 32 m }

/-- R56: in_return to placed. -/
def Account.returnToPlaced (a : Account) (m : Nat) : Account :=
  { a with inReturn := a.inReturn - BitVec.ofNat 32 m, placed := a.placed + BitVec.ofNat 32 m }

/-- R56: in_bins to removed. -/
def Account.binsToRemoved (a : Account) (m : Nat) : Account :=
  { a with inBins := a.inBins - BitVec.ofNat 32 m, removed := a.removed + BitVec.ofNat 32 m }

/-- R56: in_return to removed. -/
def Account.returnToRemoved (a : Account) (m : Nat) : Account :=
  { a with inReturn := a.inReturn - BitVec.ofNat 32 m, removed := a.removed + BitVec.ofNat 32 m }

/-- R56: in_flight to in_bins. -/
def Account.flightToBins (a : Account) : Account := { a with inFlight := a.inFlight - 1, inBins := a.inBins + 1 }

/-- R56: in_flight to purged. -/
def Account.flightToPurged (a : Account) : Account := { a with inFlight := a.inFlight - 1, purged := a.purged + 1 }

/-- R56: in_flight to lost, for `k` tickets. -/
def Account.flightToLost (a : Account) (k : Nat) : Account :=
  { a with inFlight := a.inFlight - BitVec.ofNat 32 k, lost := a.lost + BitVec.ofNat 32 k }

/-- R39: the path is open. -/
def Part.pathOpen (p : Part) : Bool := p.ctl.mode == .automatic && !p.path.stopped

/-- Release the gate select (R46, R53, R57). -/
def Part.releaseGate (p : Part) : Part := { p with path := { p.path with gate := .released } }

/-! ## Drawers (R116) -/

/-- The record of drawer `d`; a number that names no drawer reads as UNASSIGNED with UNKNOWN counts. -/
def DrawerMap.drawer (m : DrawerMap) (d : Nat) : Drawer :=
  if h : 1 ≤ d ∧ d ≤ Config.numDrawers then m.recs[d - 1]'(by omega)
  else { dest := none, state := .unassigned, locked := false, pile := none, awaited := false }

/-- Write the record of drawer `d`. -/
def DrawerMap.setDrawer (m : DrawerMap) (d : Nat) (r : Drawer) : DrawerMap :=
  if h : 1 ≤ d ∧ d ≤ Config.numDrawers then { m with recs := m.recs.set (d - 1) r (by omega) } else m

/-- The nonvolatile copy of drawer `d`. -/
def DrawerMap.nvOf (m : DrawerMap) (d : Nat) : NvCopy :=
  if h : 1 ≤ d ∧ d ≤ Config.numDrawers then m.nv[d - 1]'(by omega) else { dest := none, locked := false }

/-- Rewrite the nonvolatile copy of drawer `d` from its record (R129). -/
def DrawerMap.rewriteNv (m : DrawerMap) (d : Nat) : DrawerMap :=
  if h : 1 ≤ d ∧ d ≤ Config.numDrawers then
    { m with nv := m.nv.set (d - 1) { dest := (m.drawer d).dest, locked := (m.drawer d).locked } (by omega) }
  else m

/-- The marker of row `r` (R117). -/
def DrawerMap.marker (m : DrawerMap) (r : Nat) : Way :=
  if h : r < Config.numRows then m.markers[r] else .one

/-- Set the marker of row `r` (R117). -/
def DrawerMap.setMarker (m : DrawerMap) (r : Nat) (w : Way) : DrawerMap :=
  if h : r < Config.numRows then { m with markers := m.markers.set r w } else m

end Sys2Proof.Machine
end

