-- ==== Sys2Proof/Machine/Flags.lean ====
section
/-! DEFINITION. The flags of the part: the attention set with its levels (R151 to R153) and the fault record (R147). -/

namespace Sys2Proof.Machine

/-- R162: the bit of a condition in the attention set and the report mask. -/
def conditionBit : Condition → Nat
  | .wireLow => 0
  | .wireOut => 1
  | .slipLow => 2
  | .slipEmpty => 3
  | .overflowFull => 4
  | .straySheet => 5
  | .noticeLost => 6
  | .linkNoise => 7

/-- The mask of one condition. -/
def conditionMask (c : Condition) : BitVec 8 := 1#8 <<< conditionBit c

/-- A condition's flag or mask bit is set in a set of conditions. -/
def hasCondition (set : BitVec 8) (c : Condition) : Bool := set.getLsbD (conditionBit c)

/-- R151: a source has a condition latched. -/
def Part.latch (p : Part) (c : Condition) : Part :=
  if hasCondition p.faults.attention c then p
  else
    let set := p.faults.attention ||| conditionMask c
    let p := { p with faults := { p.faults with attention := set } }
    if hasCondition p.faults.reportMask c then p.raise (.attnRaised c set) else p

/-- Latch a condition where `b` holds. -/
def Part.latchIf (p : Part) (b : Bool) (c : Condition) : Part := if b then p.latch c else p

/-! ## Levels -/

/-- R96: the level of WIRE_OUT: an entry of a WAIT job that needs more wire than remains. -/
def Part.wireOutLevel (p : Part) : Bool :=
  p.carriage.queue.any fun b => p.wireRuleOf b == .wait && p.carriage.wire < (p.bin b).set.need

/-- R111: the level of OVERFLOW_FULL: an eject queue entry held for lack of overflow room. -/
def Conveyor.fullLevel (c : Conveyor) : Bool := c.queue.any fun e => e.placeable == some false

/-- R96, R104, R151: the levels as their sources report them, in every mode. In HALTED the records they are read from stand as
they stood at the halt, so that a query shows each level as its source last reported it (R161; notes/assumptions/30.md). -/
def Part.levels (p : Part) : Levels :=
  { wireLow := p.carriage.wire < wireLowMark
    wireOut := p.wireOutLevel
    slipLow := p.conv.slipLow
    slipEmpty := p.conv.slipOut
    overflowFull := p.conv.fullLevel }

/-- R151: the level of a condition; a condition without a level has it absent. -/
def Levels.of (l : Levels) : Condition → Bool
  | .wireLow => l.wireLow
  | .wireOut => l.wireOut
  | .slipLow => l.slipLow
  | .slipEmpty => l.slipEmpty
  | .overflowFull => l.overflowFull
  | .straySheet | .noticeLost | .linkNoise => false

/-- R152: an ATTN_CLEAR keeps the flag of a condition whose level is present; but a WIRE_LOW named in STARTING is cleared, as the
rule's example says (notes/assumptions/11.md). -/
def Part.keeps (p : Part) (c : Condition) : Bool :=
  p.levels.of c && !(p.ctl.mode == .starting && c == .wireLow)

/-- R152: one named condition is cleared unless its level is present. Clearing NOTICE_LOST drops the owed notice (R153). -/
def Part.clearCondition (p : Part) (c : Condition) : Part :=
  if p.keeps c then p
  else
    { p with faults := { p.faults with
        attention := p.faults.attention &&& ~~~(conditionMask c)
        owed := if c = .noticeLost then none else p.faults.owed } }

/-- R96: wire remaining has changed or an entry has joined the stitch queue; `before` is the WIRE_OUT level before. -/
def Part.latchWireOut (p : Part) (before : Bool) : Part := p.latchIf (p.wireOutLevel && !before) .wireOut

/-- R96: wire remaining becomes `w`. -/
def Part.setWire (p : Part) (w : Nat) : Part :=
  let before := p.wireOutLevel
  let p := { p with carriage := { p.carriage with wire := w } }
  (p.latchIf (w < wireLowMark) .wireLow).latchWireOut before

/-! ## The fault record -/

/-- R147: what a fault of this kind does to the record. -/
def FaultBlock.effect (f : FaultBlock) (k : FaultKind) : FaultEffect :=
  match f.first with
  | none => .first
  | some e => if !isFatal e.kind && isFatal k then .overwrote else .counted

/-- R147: the record after a fault. -/
def FaultBlock.enter (f : FaultBlock) (e : FaultEntry) : FaultBlock :=
  match f.effect e.kind with
  | .first => { f with first := some e }
  | .overwrote => { f with first := some e, overwritten := true }
  | .counted => { f with later := min 255 (f.later + 1) }

/-- R138: the kinds that make a door cycle owed. -/
def owesDoorCycle : FaultKind → Bool
  | .pathJam | .pathOverrun | .sensorMismatch | .purgeFull => true
  | _ => false

/-- R146 steps 1 and 2, and the door cycle owed: the fault is recorded and reported. -/
def Part.recordFault (p : Part) (e : FaultEntry) : Part :=
  let effect := p.faults.effect e.kind
  let p := { p with faults := p.faults.enter e }
  let p := p.raise (.faultNote e effect)
  if owesDoorCycle e.kind then { p with ctl := { p.ctl with doorCycle := .owed } } else p

end Sys2Proof.Machine
end

