-- ==== Sys2Proof/Machine/Drawers.lean ====
section
/-! DEFINITION. The drawer map (08): recency, resolution and allocation, arrival and collection, locks, the nonvolatile copy
and the start-up restore. Each act gives the map after it and the DRAWER_CHANGED contents it makes, in order. -/

namespace Sys2Proof.Machine

/-! ## Records and notices -/

/-- R116: the row of a dynamic drawer. -/
def rowOf (d : Nat) : Nat := (d - 1) / 2

/-- R116: the way of a dynamic drawer within its row. -/
def wayOf (d : Nat) : Way := if d % 2 = 1 then .one else .two

/-- R116: the row of a destination. -/
def destRow (dest : Nat) : Nat := dest % 8

/-- R116: the drawer of a way of a row. -/
def drawerOfWay (row : Nat) : Way → Nat
  | .one => 2 * row + 1
  | .two => 2 * row + 2

/-- R116: drawers 17 to 20 are flexible. -/
def isFlexible (d : Nat) : Bool := 17 ≤ d && d ≤ 20

/-- The flexible drawers. -/
def flexibleDrawers : List Nat := [17, 18, 19, 20]

/-- R119: the DRAWER_CHANGED of drawer `d` as its record now stands. -/
def DrawerMap.change (m : DrawerMap) (d : Nat) (before : Option Nat) (cause : DrawerCause) : DrawerChange :=
  let r := m.drawer d
  { drawer := d, dest := r.dest, before := before, state := r.state, locked := r.locked, pile := r.pile, cause := cause }

/-- R118: the label of a drawer. -/
def Drawer.label (r : Drawer) : Label :=
  { dest := r.dest, full := r.state == .full, lock := r.locked && r.state != .closing }

/-- A known set count of 0. -/
def Drawer.empty (r : Drawer) : Bool := (r.pile.map Pile.count) == some 0

/-- R117: the tree after a use of flexible drawer `d`. -/
def Tree.use (t : Tree) (d : Nat) : Tree :=
  match d with
  | 17 => { t with upperPair := true, second17 := true }
  | 18 => { t with upperPair := true, second17 := false }
  | 19 => { t with upperPair := false, second19 := true }
  | 20 => { t with upperPair := false, second19 := false }
  | _ => t

/-- R117: drawer `d` is used. -/
def DrawerMap.use (m : DrawerMap) (d : Nat) : DrawerMap :=
  if isFlexible d then { m with tree := m.tree.use d } else m.setMarker (rowOf d) (wayOf d)

/-! ## Resolution (R120 to R123) -/

/-- The outcome of a resolution: the map after its effects, the notices of those effects, and the place reached. -/
structure Resolution where
  map     : DrawerMap
  changes : List DrawerChange
  place   : Place
  deriving DecidableEq, Repr

/-- R120: the drawer becomes FULL. -/
def DrawerMap.makeFull (m : DrawerMap) (d : Nat) : DrawerMap × List DrawerChange :=
  let r := m.drawer d
  let m := m.setDrawer d { r with state := .full }
  (m, [m.change d r.dest .full])

/-- R121: the drawer is assigned to `dest` by allocation and used. -/
def DrawerMap.allocateTo (m : DrawerMap) (d dest : Nat) : DrawerMap × List DrawerChange :=
  let r := m.drawer d
  let m := (m.setDrawer d { r with dest := some dest, state := .open }).use d
  let m := m.rewriteNv d
  (m, [m.change d r.dest .allocated])

/-- R121, R122: an UNASSIGNED drawer with a known count. -/
def DrawerMap.vacant (m : DrawerMap) (d : Nat) : Bool :=
  (m.drawer d).state == .unassigned && (m.drawer d).pile.isSome

/-- R121, R122: an OPEN drawer of another destination with a set count of 0. -/
def DrawerMap.takable (m : DrawerMap) (dest d : Nat) : Bool :=
  (m.drawer d).state == .open && (m.drawer d).dest != some dest && (m.drawer d).empty

/-- R121: the drawer that allocation takes in the destination's row. -/
def DrawerMap.rowChoice (m : DrawerMap) (dest : Nat) : Option Nat :=
  let row := destRow dest
  let d1 := drawerOfWay row .one
  let d2 := drawerOfWay row .two
  if m.vacant d1 then some d1
  else if m.vacant d2 then some d2
  else match m.takable dest d1, m.takable dest d2 with
    | true, true => some (if m.marker row = .one then d2 else d1)
    | true, false => some d1
    | false, true => some d2
    | false, false => none

/-- R122: the eligible drawer the tree chooses. -/
def Tree.choose (t : Tree) (eligible : Nat → Bool) : Option Nat :=
  let lower := if t.second17 then [18, 17] else [17, 18]
  let upper := if t.second19 then [20, 19] else [19, 20]
  let pairs := if t.upperPair then upper ++ lower else lower ++ upper
  pairs.find? eligible

/-- R122: the drawer that allocation takes among the flexible drawers. -/
def DrawerMap.flexChoice (m : DrawerMap) (dest : Nat) : Option Nat :=
  match flexibleDrawers.find? fun d => !(m.drawer d).locked && m.vacant d with
  | some d => some d
  | none => m.tree.choose fun d => !(m.drawer d).locked && m.takable dest d

/-- R120 step 3: allocation. -/
def DrawerMap.allocate (m : DrawerMap) (dest : Nat) (changes : List DrawerChange) : Resolution :=
  match (m.rowChoice dest).or (m.flexChoice dest) with
  | some d =>
    let (m, cs) := m.allocateTo d dest
    { map := m, changes := changes ++ cs, place := .drawer d }
  | none => { map := m, changes := changes, place := .overflow }

/-- R120 step 1: the flexible drawer locked to the destination that is OPEN with a known count. -/
def DrawerMap.lockedOpen (m : DrawerMap) (dest : Nat) : Option Nat :=
  flexibleDrawers.find? fun d =>
    (m.drawer d).locked && (m.drawer d).dest == some dest && (m.drawer d).state == .open && (m.drawer d).pile.isSome

/-- R116: the OPEN drawer of a destination. -/
def DrawerMap.openDrawer (m : DrawerMap) (dest : Nat) : Option Nat :=
  allDrawers.find? fun d => (m.drawer d).state == .open && (m.drawer d).dest == some dest

/-- R120: the resolution of destination `dest` with stack `t`, with its effects. A test reads `place` alone (R123). -/
def DrawerMap.resolve (m : DrawerMap) (dest t : Nat) : Resolution :=
  match (m.lockedOpen dest).or (m.openDrawer dest) with
  | some d =>
    if pileAccepts (m.drawer d).pile t then { map := m, changes := [], place := .drawer d }
    else
      let (m, cs) := m.makeFull d
      m.allocate dest cs
  | none => m.allocate dest []

/-! ## Trips, arrival and collection -/

/-- R123: the awaited flag of a drawer. -/
def DrawerMap.setAwaited (m : DrawerMap) (place : Place) (b : Bool) : DrawerMap :=
  match place with
  | .drawer d => m.setDrawer d { m.drawer d with awaited := b }
  | .overflow => m

/-- R124: a set of stack `t` arrives at drawer `d`. -/
def DrawerMap.arrive (m : DrawerMap) (d t : Nat) : DrawerMap :=
  let r := m.drawer d
  let pile := r.pile.map fun q => { count := q.count + 1, stack := q.stack + t }
  (m.setDrawer d { r with pile := pile, awaited := false }).use d

/-- R125, R127: another OPEN drawer of a destination is closed: UNASSIGNED when its count is 0 and it is not awaited, CLOSING
otherwise. -/
def DrawerMap.close (m : DrawerMap) (d : Nat) : DrawerMap × List DrawerChange :=
  let r := m.drawer d
  let m :=
    if r.empty && !r.awaited then
      (m.setDrawer d { r with dest := none, state := .unassigned }).rewriteNv d
    else m.setDrawer d { r with state := .closing }
  (m, [m.change d r.dest .closed])

/-- R125, R127: the OPEN drawers of a destination other than `keep` are closed, in drawer order. -/
def DrawerMap.closeOthers (m : DrawerMap) (dest keep : Nat) : DrawerMap × List DrawerChange :=
  (allDrawers.filter fun d => d ≠ keep && (m.drawer d).state == .open && (m.drawer d).dest == some dest).foldl
    (fun (m, cs) d => let (m, c) := m.close d; (m, cs ++ c)) (m, [])

/-- R125: drawer `d` is collected. -/
def DrawerMap.collect (m : DrawerMap) (d : Nat) : DrawerMap × List DrawerChange :=
  let r : Drawer := { m.drawer d with pile := some { count := 0, stack := 0 } }
  let gone : DrawerMap × List DrawerChange :=
    let m := (m.setDrawer d { r with dest := none, state := .unassigned }).rewriteNv d
    (m, [m.change d r.dest .collected])
  let opened : DrawerMap × List DrawerChange :=
    let m := m.setDrawer d { r with state := .open }
    (m, [m.change d r.dest .collected])
  match r.state with
  | .unassigned => (m.setDrawer d r, [])
  | .open => (m.setDrawer d r, [])
  | .full =>
    if r.locked then
      let (m, cs) := opened
      let (m, more) := m.closeOthers (r.dest.getD 0) d
      (m, cs ++ more)
    else if (m.openDrawer (r.dest.getD 0)).isSome then gone
    else opened
  | .closing => if r.awaited then (m.setDrawer d r, []) else gone

/-! ## Locks (R126 to R128) -/

/-- The flexible drawer locked to a destination. -/
def DrawerMap.lockOf (m : DrawerMap) (dest : Nat) : Option Nat :=
  flexibleDrawers.find? fun d => (m.drawer d).locked && (m.drawer d).dest == some dest

/-- R126 checks 3 to 7. -/
def DrawerMap.checkLock (m : DrawerMap) (f dest : Nat) : Option Result :=
  let r := m.drawer f
  if !drawerOk f || dest = 0 || dest > 4095 then some .badField
  else if !isFlexible f then some .notFlexible
  else if (flexibleDrawers.any fun d => d ≠ f && (m.drawer d).locked && (m.drawer d).dest == some dest) then some .drawerBusy
  else if r.locked && r.dest != some dest then some .drawerBusy
  else if r.dest != some dest && (!r.empty || r.awaited) then some .drawerBusy
  else none

/-- R127: an accepted DRAWER_LOCK. A drawer already locked to the destination is left as it is (R126). -/
def DrawerMap.lock (m : DrawerMap) (f dest : Nat) : DrawerMap × List DrawerChange :=
  let r := m.drawer f
  if r.locked && r.dest == some dest then (m, [])
  else
    let st : DrawerState :=
      if r.dest == some dest && (r.state == .full || r.pile.isNone) then .full else .open
    let m1 := m.setDrawer f { r with dest := some dest, state := st, locked := true }
    let m1 := if r.dest == some dest then m1 else m1.use f
    let m1 := m1.rewriteNv f
    let (m2, cs) := m1.closeOthers dest f
    (m2, m1.change f r.dest .locked :: cs)

/-- R128: an accepted DRAWER_UNLOCK. -/
def DrawerMap.unlock (m : DrawerMap) (f : Nat) : DrawerMap × List DrawerChange :=
  let r := m.drawer f
  if r.locked then
    let m := (m.setDrawer f { r with locked := false }).rewriteNv f
    (m, [m.change f r.dest .unlocked])
  else (m, [])

/-! ## The start-up restore (R130) -/

/-- R130: the record of one drawer from its nonvolatile copy and its occupancy sensor. -/
def restoredDrawer (c : NvCopy) (occupied : Bool) : Drawer :=
  let known : Option Pile := some { count := 0, stack := 0 }
  match c.locked, c.dest, occupied with
  | true, dest, false => { dest := dest, state := .open, locked := true, pile := known, awaited := false }
  | true, dest, true => { dest := dest, state := .full, locked := true, pile := none, awaited := false }
  | false, some dest, true => { dest := some dest, state := .closing, locked := false, pile := none, awaited := false }
  | false, _, false => { dest := none, state := .unassigned, locked := false, pile := known, awaited := false }
  | false, none, true => { dest := none, state := .unassigned, locked := false, pile := none, awaited := false }

/-- R117, R130: the drawer map after the restore. -/
def DrawerMap.restore (m : DrawerMap) (l : Lines) : DrawerMap :=
  let recs : Vector Drawer Config.numDrawers := Vector.ofFn fun i =>
    restoredDrawer (m.nvOf (i.val + 1)) (l.drawerOccupied (i.val + 1))
  { recs := recs
    nv := recs.map fun r => { dest := r.dest, locked := r.locked }
    markers := Vector.replicate _ .one
    tree := { upperPair := false, second17 := false, second19 := false } }

/-- R130: the twenty DRAWER_CHANGED of the restore; the destination before is the one the copy held. -/
def DrawerMap.restoreChanges (before after : DrawerMap) : List DrawerChange :=
  allDrawers.map fun d => after.change d (before.nvOf d).dest .restored

/-! ## On the part -/

/-- The drawer map's act: its map and its notices. -/
def Part.drawerAct (p : Part) (r : DrawerMap × List DrawerChange) : Part :=
  r.2.foldl (fun p c => p.raise (.drawerChanged c)) { p with drawers := r.1 }

end Sys2Proof.Machine
end

