-- ==== Sys2Proof/Machine/Modes.lean ====
section
/-! DEFINITION. Changes of mode (R133), the idle condition, parking and waking (R140 to R142). -/

namespace Sys2Proof.Machine

/-- R133: the mode changes and MODE_NOW is made. -/
def Part.changeMode (p : Part) (m : Mode) (cause : ModeCause) (fault : Option FaultKind) : Part :=
  ({ p with ctl := { p.ctl with mode := m } }).raise
    (.modeNow m (some p.ctl.mode) cause fault p.ctl.doorOpen p.ctl.keyOn)

/-- R140: the idle condition. -/
def Part.idle (p : Part) : Bool :=
  p.runs.current.isNone && p.runs.pending.isNone && p.runs.finishing.isEmpty && p.path.tickets.isEmpty
    && p.carriage.queue.isEmpty && p.conv.queue.isEmpty && p.carriage.state == .idle && p.conv.state == .idle

/-- R140, R141: the mode becomes PARKED. The path ceases to be open, so the gate select is released (R46). -/
def Part.park (p : Part) (cause : ModeCause) : Part :=
  ({ p with ctl := { p.ctl with parkPending := false, idleTimer := none } }).releaseGate.changeMode .parked cause none

/-- R142: an act gives the mechanism work; in PARKED the mode becomes WAKING. -/
def Part.wake (p : Part) : Part :=
  if p.ctl.mode = .parked then
    ({ p with ctl := { p.ctl with wakingDeadline := some (p.now + wakingTime) } }).changeMode .waking .wake none
  else p

/-- R141: the idle timer started anew with the option as it stands; an option of 0 stops it. -/
def Part.startIdleTimer (p : Part) : Part :=
  { p with ctl := { p.ctl with
      idleTimer := if p.ctl.idleTime = 0 then none else some (p.now + 1000 * p.ctl.idleTime) } }

/-- R140, R141: the idle condition is examined in AUTOMATIC, once the act is done (notes/assumptions/8.md): a park that is
pending is made, the timer starts when the condition begins to hold and stops when it ceases. -/
def Part.examineIdle (p : Part) : Part :=
  if p.ctl.mode = .automatic then
    if p.idle then
      if p.ctl.parkPending then p.park .park
      else if p.ctl.idleTimer.isNone then p.startIdleTimer
      else p
    else { p with ctl := { p.ctl with idleTimer := none } }
  else p

end Sys2Proof.Machine
end

