-- ==== Sys2Proof/Machine/Conveyor.lean ====
section
/-! DEFINITION. The return conveyor's choice of a set and the start of its trip (R100 to R105, R111). -/

namespace Sys2Proof.Machine

/-- Change the trip record, if there is one. -/
def Part.modTrip (p : Part) (f : Trip → Trip) : Part :=
  { p with conv := { p.conv with trip := p.conv.trip.map f } }

/-- R102: the set in bin `b` is placeable. -/
def Part.placeable (p : Part) (b : Nat) : Bool :=
  let t := (p.bin b).set.stack
  match p.destOf b with
  | none => trayAccepts p.conv.tray none t
  | some dest =>
    match (p.drawers.resolve dest t).place with
    | .drawer _ => true
    | .overflow => trayAccepts p.conv.tray (some dest) t

/-- R102: the entries tested from the head up to the first that passes, each marked with what the test found, and the bin of
that first. -/
def testEntries (passes : Nat → Bool) : List EjectEntry → List EjectEntry × Option Nat
  | [] => ([], none)
  | e :: es =>
    if passes e.bin then ({ e with placeable := some true } :: es, some e.bin)
    else
      let (es', c) := testEntries passes es
      ({ e with placeable := some false } :: es', c)

/-- R105: the ejector of the trip's bin starts. -/
def Part.startEjector (p : Part) : Part :=
  match p.conv.trip with
  | none => p
  | some t =>
    let p := p.modAccount fun a => a.binsToReturn t.sheets
    { p with conv := { p.conv with
        state := .carrying, trip := some { t with deadline := some (p.now + carryTime) } } }

/-- R104: the header of a trip to the overflow tray is settled, or its slip feed started. -/
def Part.slipStep (p : Part) : Part :=
  match p.conv.trip with
  | none => p
  | some t =>
    if slipNeeded p.conv.tray.groups t.dest then
      if p.conv.slipOut then
        ((p.modTrip fun t => { t with header := some .unmarked }).latch .slipEmpty).startEjector
      else
        { p with conv := { p.conv with
            state := .slip, feeder := .feeding
            trip := some { t with header := some .pending, deadline := some (p.now + slipTime) } } }
    else (p.modTrip fun t => { t with header := some .joins }).startEjector

/-- R101: the trip record of the set in bin `b`, its copy of the set taken at the choice. -/
def Part.tripOf (p : Part) (b : Nat) (place : Place) : Trip :=
  let s := (p.bin b).set
  { bin := b, job := s.job, copy := s.copy, dest := p.destOf b, void := s.void, sheets := s.sheets, stack := s.stack
    stitches := s.planned.stitches, made := s.made, reason := s.planned.reason, h := s.planned.h, place := place
    header := none, emptied := false, proving := false, deadline := none }

/-- R103: the place of the set in bin `b`, with the effects of its resolution. -/
def Part.fixPlace (p : Part) (b : Nat) : Part × Place :=
  match p.destOf b with
  | none => (p, .overflow)
  | some dest =>
    let r := p.drawers.resolve dest (p.bin b).set.stack
    (p.drawerAct (r.map, r.changes), r.place)

/-- R103: bin `b` is chosen. -/
def Part.choose (p : Part) (b : Nat) : Part :=
  let p := { p with conv := { p.conv with queue := p.conv.queue.filter fun e => e.bin ≠ b } }
  let (p, place) := p.fixPlace b
  let p := { p with conv := { p.conv with trip := some (p.tripOf b place) }
                    drawers := p.drawers.setAwaited place true }
  let p := p.setBinState b .ejecting
  match place with
  | .drawer _ => p.startEjector
  | .overflow => p.slipStep

/-- R102, R111: the choice check. -/
def Part.choiceCheck (p : Part) : Part :=
  if p.conv.state = .idle ∧ p.ctl.mode = .automatic then
    let before := p.conv.fullLevel
    let (q, c) := testEntries p.placeable p.conv.queue
    let p := { p with conv := { p.conv with queue := q } }
    let p := p.latchIf (p.conv.fullLevel && !before) .overflowFull
    match c with
    | some b => p.choose b
    | none => p
  else p

/-- R100: bin `b` stands at the tail of the eject queue. -/
def Part.appendEject (p : Part) (b : Nat) : Part :=
  { p with conv := { p.conv with queue := p.conv.queue ++ [{ bin := b, placeable := none }] } }

/-- R100, R102, R142: bin `b` joins the eject queue at its tail, and the choice check is made. -/
def Part.joinEject (p : Part) (b : Nat) : Part := (p.appendEject b).wake.choiceCheck

/-- R71: bin `b` leaves the eject queue. -/
def Part.leaveEject (p : Part) (b : Nat) : Part :=
  { p with conv := { p.conv with queue := p.conv.queue.filter fun e => e.bin ≠ b } }

/-- R113: the conveyor is stopped with its trip kept: a slip step goes back to PENDING, a carry stops. -/
def Part.stopConveyor (p : Part) : Part :=
  match p.conv.state with
  | .slip =>
    { p with conv := { p.conv with
        state := .stopped, feeder := .idle
        trip := p.conv.trip.map fun t => { t with header := some .pending, deadline := none } } }
  | .carrying =>
    { p with conv := { p.conv with
        state := .stopped, trip := p.conv.trip.map fun t => { t with deadline := none } } }
  | .idle | .stopped => p

end Sys2Proof.Machine
end

