-- ==== Sys2Proof/Machine/Carriage.lean ====
section
/-! DEFINITION. The stitching carriage (06): the stitch queue, the take check, travel, stitch cycles, homing. -/

namespace Sys2Proof.Machine

/-! ## The stitch queue (R86) -/

/-- The URGENT entries of the stitch queue and the NORMAL ones, each in order. -/
def Part.stitchClasses (p : Part) : List Nat × List Nat :=
  (p.carriage.queue.filter fun b => p.priorityOf b == .urgent, p.carriage.queue.filter fun b => p.priorityOf b != .urgent)

/-- R86: a bin that joins at set completion stands behind the last entry of its class. -/
def Part.insertTail (p : Part) (b : Nat) : Part :=
  let (u, n) := p.stitchClasses
  { p with carriage := { p.carriage with
      queue := if p.priorityOf b = .urgent then u ++ [b] ++ n else u ++ n ++ [b] } }

/-- R86: a bin that the carriage returns stands at the head of its class. -/
def Part.insertHead (p : Part) (b : Nat) : Part :=
  let (u, n) := p.stitchClasses
  { p with carriage := { p.carriage with
      queue := if p.priorityOf b = .urgent then b :: u ++ n else u ++ b :: n } }

/-- Bin `b` leaves the stitch queue. -/
def Part.leaveStitch (p : Part) (b : Nat) : Part :=
  { p with carriage := { p.carriage with queue := p.carriage.queue.filter fun c => c ≠ b } }

/-! ## Cycles and the take check -/

/-- R91: the wire test of the held set in bin `b`, at which the carriage stands: the cycle starts, or the set goes back to the
stitch queue and the carriage is IDLE at `b`. -/
def Part.startCycle (p : Part) (b : Nat) : Part :=
  let need := stitchWire (p.bin b).set.planned.h
  if need ≤ p.carriage.wire then
    let p := p.modSet b fun s => { s with made := s.made + 1 }
    let p := { p with carriage := { p.carriage with
      state := .stitching, position := .bin b, target := none, deadline := some (p.now + cycleTime) } }
    p.setWire (p.carriage.wire - need)
  else
    let p := p.setBinState b .stitchWait
    let p := { p with carriage := { p.carriage with
      state := .idle, position := .bin b, held := none, target := none, deadline := none } }
    let before := p.wireOutLevel
    (p.insertHead b).latchWireOut before

/-- R88, R90: the carriage takes the set in bin `b`. -/
def Part.take (p : Part) (b : Nat) : Part :=
  let p := (p.leaveStitch b).setBinState b .stitching
  let p := { p with carriage := { p.carriage with held := some { bin := b, cond := .taken } } }
  if p.carriage.position = .bin b then p.startCycle b
  else
    { p with carriage := { p.carriage with
        state := .travelling, target := some (.bin b), deadline := some (p.now + travelTime) } }

/-- R89: the plan of a set re-planned for want of wire. -/
def noWirePlan (s : SetRecord) : Plan :=
  { stitches := 0, h := if s.made = 0 then 0 else s.planned.h, clinch := if s.made = 0 then 0 else s.planned.clinch
    wire := 0, reason := some .noWire }

/-- R89: the set in bin `b` is re-planned for want of wire. -/
def Part.replan (p : Part) (b : Nat) : Part :=
  let p := p.leaveStitch b
  let p := p.modSet b fun s => { s with plan := some (noWirePlan s) }
  (p.setBinState b .ejectWait).joinEject b

/-- R88: the take check, made again after each re-plan; `fuel` bounds the entries it may go through. -/
def Part.takeCheckN : Nat → Part → Part
  | 0, p => p
  | fuel + 1, p =>
    if p.carriage.state = .idle ∧ p.ctl.mode = .automatic then
      match p.carriage.queue.find? fun b => (p.bin b).set.need ≤ p.carriage.wire with
      | some b => Part.takeCheckN fuel (p.take b)
      | none =>
        match p.carriage.queue.find? fun b => p.wireRuleOf b == .unstitched with
        | some b => Part.takeCheckN fuel (p.replan b)
        | none => p
    else p

/-- R88: the take check. -/
def Part.takeCheck (p : Part) : Part := Part.takeCheckN (p.carriage.queue.length + 2) p

/-- R65, R86, R88, R96, R142: bin `b` joins the stitch queue at set completion. -/
def Part.joinStitch (p : Part) (b : Nat) : Part :=
  let before := p.wireOutLevel
  ((p.insertTail b).latchWireOut before).wake.takeCheck

/-- R92: the finished set is handed on. -/
def Part.handOn (p : Part) (b : Nat) : Part :=
  let p := { p with carriage := { p.carriage with
    state := .idle, position := .bin b, held := none, target := none, deadline := none } }
  ((p.setBinState b .ejectWait).joinEject b).takeCheck

/-! ## Homing (R94) -/

/-- R94: homing starts. -/
def Part.startHoming (p : Part) : Part :=
  { p with carriage := { p.carriage with
      state := .homing, position := .unknown, target := some .home, deadline := some (p.now + homingTime) } }

/-- The drive stops during travel or homing (R87, R90, R94, R97): STOPPED with position UNKNOWN. -/
def Part.stopDrive (p : Part) : Part :=
  { p with carriage := { p.carriage with state := .stopped, position := .unknown, target := none, deadline := none } }

/-- R97: the carriage's part of the entry to SERVICE. -/
def Part.carriageService (p : Part) : Part :=
  if p.carriage.state = .travelling then
    let p := p.stopDrive
    { p with carriage := { p.carriage with held := p.carriage.held.map fun h => { h with cond := .interrupted } } }
  else p

/-- R99: the carriage's part of the entry to HALTED. -/
def Part.carriageHalt (p : Part) : Part :=
  { p with carriage := { p.carriage with
      state := .stopped, target := none, deadline := none
      position := if p.carriage.state = .travelling ∨ p.carriage.state = .homing then .unknown else p.carriage.position } }

end Sys2Proof.Machine
end

