-- ==== Sys2Proof/Machine/Jobs.lean ====
section
/-! DEFINITION. The job table's and the bin tower's shared acts: grants (R7, R8), release and the end of a job (R2, R17, R18,
R69), set completion (R65), voiding (R63, R64, R67), closing (R10, R11). -/

namespace Sys2Proof.Machine

/-! ## Grants (R6 to R8) -/

/-- R6: the bin wait queue with an accepted job in its place. -/
def Part.enqueueJob (p : Part) (n : Nat) (pr : Priority) : List Nat :=
  match pr with
  | .normal => p.jobs.queue ++ [n]
  | .urgent =>
    let urgent := fun m => ((p.job? m).map Job.priority) == some .urgent
    p.jobs.queue.filter urgent ++ n :: p.jobs.queue.filter fun m => !urgent m

/-- R8: the bins a grant of `n` copies takes: the lowest block of `n` consecutive FREE bins, else the `n` lowest FREE bins. -/
def Part.chooseBins (p : Part) (n : Nat) : List Nat :=
  match allBins.find? fun b => (List.range' b n).all p.isFree with
  | some b => List.range' b n
  | none => p.freeBins.take n

/-- R8, R59: the chosen bins become ASSIGNED with empty set records, copy `k` onward. -/
def Part.assignBins (p : Part) (job : Nat) : Nat → List Nat → Part
  | _, [] => p
  | k, b :: bs =>
    (p.setBin b { state := .assigned, set := { job := some job, copy := some k } }).assignBins job (k + 1) bs

/-- R8: the job at the head of the bin wait queue is granted its bins. -/
def Part.grant (p : Part) (j : Job) (rest : List Nat) : Part :=
  let bins := p.chooseBins j.copies
  let p := { p with jobs := { p.jobs with queue := rest } }
  let p := p.modJob j.number fun j =>
    { j with state := .active, bins := bins.map fun b => { bin := b, released := false } }
  (p.assignBins j.number 1 bins).raise (.jobReady j.number j.copies bins)

/-- R7: the grant check, made again with each new head. -/
def Part.grantCheckN : Nat → Part → Part
  | 0, p => p
  | fuel + 1, p =>
    match p.jobs.queue with
    | [] => p
    | n :: rest =>
      match p.job? n with
      | none => p
      | some j => if j.copies ≤ p.freeBins.length then Part.grantCheckN fuel (p.grant j rest) else p

/-- R7: the grant check. -/
def Part.grantCheck (p : Part) : Part := Part.grantCheckN p.jobs.queue.length p

/-! ## The end of a job (R17 to R19) -/

/-- R17, R18: a set of the job is on the return conveyor. -/
def Part.onConveyor (p : Part) (n : Nat) : Bool :=
  match p.conv.trip with
  | some t => t.job == some n
  | none => false

/-- R17, R18: how the job ends now, if it does. -/
def Part.endOf (p : Part) (j : Job) : Option JobOutcome :=
  if j.allReleased && !p.onConveyor j.number then
    match j.state with
    | .finishing => some .completed
    | .cancelling => if p.hasStartedRun j.number then none else some .cancelled
    | _ => none
  else none

/-- R17 to R19: the test for the end of a job; at the end JOB_DONE is made and the record freed. -/
def Part.testEnd (p : Part) (n : Nat) : Part :=
  match p.job? n with
  | none => p
  | some j =>
    match p.endOf j with
    | some o => (p.raise (.jobDone n o j.copies j.tallies)).dropJob n
    | none => p

/-! ## Release (R2, R69) -/

/-- Bin `b` becomes FREE; its job's entry is released with a change of the tallies, the end of the job is tested and the grant
check made (R65, R69, R71). -/
def Part.freeBin (p : Part) (b : Nat) (f : Tallies → Tallies) : Part :=
  let n := p.binJob b
  let p := p.setBin b Bin.free
  match n with
  | some n => ((p.modJob n fun j => (j.release b).tally f).testEnd n).grantCheck
  | none => p.grantCheck

/-- R69: the release after an ejection. -/
def Part.releaseBin (p : Part) (b : Nat) : Part := p.freeBin b id

/-- R64, R65, R67: a bin without sheets is freed; the copy counts as an empty set. -/
def Part.freeEmpty (p : Part) (b : Nat) : Part := p.freeBin b Tallies.addEmpty

/-! ## Set completion (R11, R65) -/

/-- R65: one bin is completed. -/
def Part.completeBin (p : Part) (pattern : Pattern) (rule : DisorderRule) (b : Nat) : Part :=
  let s := (p.bin b).set
  if s.sheets = 0 && !s.foreign then p.freeEmpty b
  else
    let plan := stitchPlan s.sheets s.stack s.foreign s.disordered pattern rule
    let p := p.modSet b fun s => { s with plan := some plan }
    if plan.stitches = 0 then (p.setBinState b .ejectWait).joinEject b
    else (p.setBinState b .stitchWait).joinStitch b

/-- R11: a job's close takes effect. -/
def Part.closeTakesEffect (p : Part) (n : Nat) : Part :=
  match p.job? n with
  | none => p
  | some j =>
    (j.heldBins.foldl (fun p b => p.completeBin j.pattern j.disorder b) (p.setJobState n .finishing)).testEnd n

/-- R10, R17: a run of the job has departed. -/
def Part.runDeparted (p : Part) (n : Nat) : Part :=
  match p.job? n with
  | none => p
  | some j =>
    match j.state with
    | .closing => if p.workInHand n then p else p.closeTakesEffect n
    | .cancelling => p.testEnd n
    | _ => p

/-- R13: a run of the job has left the CURRENT slot. -/
def Part.runLeftSlot (p : Part) (n : Nat) : Part :=
  match p.job? n with
  | none => p
  | some j => if j.state = .holding then (p.setJobState n .held).raise (.jobHeld n) else p

/-! ## Voiding (R63, R64, R67) -/

/-- R67: the void set of bin `b` receives the void plan and joins the eject queue. -/
def Part.finishVoid (p : Part) (b : Nat) : Part :=
  let p := p.modSet b fun s => { s with void := true, plan := some voidPlan }
  (p.setBinState b .ejectWait).joinEject b

/-- Raise the voided sets tally of the job of bin `b`'s set (R3). -/
def Part.tallyVoided (p : Part) (b : Nat) : Part := p.modJobOf (p.binJob b) fun j => j.tally Tallies.addVoided

/-- R67: one bin of a cancelled job is voided according to its state. -/
def Part.voidBin (p : Part) (b : Nat) : Part :=
  let waits := (p.bin b).set.inboundSheets ≠ 0
  match (p.bin b).state with
  | .assigned => if waits then p.modSet b fun s => { s with void := true } else p.freeEmpty b
  | .filling =>
    let p := p.tallyVoided b
    if waits then p.modSet b fun s => { s with void := true } else p.finishVoid b
  | .stitchWait => ((p.leaveStitch b).tallyVoided b).finishVoid b
  | .free | .stitching | .ejectWait | .ejecting | .orphan => p

/-- R62, R63: a deposited sheet of page `page` at caliper `c` is recorded in bin `b`. -/
def Part.appendSheet (p : Part) (b page c : Nat) : Part :=
  let first := (p.bin b).state = .assigned
  let p := p.modSet b fun s =>
    { s with
      inboundSheets := s.inboundSheets - 1
      inboundMicrons := s.inboundMicrons - c
      disordered := s.disordered || s.pages.any fun q => page < q
      pages := s.pages ++ [page]
      stack := s.stack + c }
  let p := if first then p.setBinState b .filling else p
  if (p.bin b).set.void then
    let p := if first then p.tallyVoided b else p
    if (p.bin b).set.inboundSheets = 0 then p.finishVoid b else p
  else p

/-- R64: the reservation of a lost sheet of caliper `c` is released at bin `b`. -/
def Part.releaseReservation (p : Part) (b c : Nat) : Part :=
  let p := p.modSet b fun s =>
    { s with inboundSheets := s.inboundSheets - 1, inboundMicrons := s.inboundMicrons - c }
  let s := (p.bin b).set
  if s.void && s.inboundSheets = 0 then
    if s.sheets = 0 then p.freeEmpty b else p.finishVoid b
  else p

/-- R68: the record of an ORPHAN bin. -/
def Bin.orphan : Bin := { state := .orphan, set := { void := true, plan := some voidPlan } }

end Sys2Proof.Machine
end

