-- ==== Sys2Proof/Machine/Runs.lean ====
section
/-! DEFINITION. The run controller's acts (02): promotion, assignment, the run boundary, settling, completion, withdrawal. -/

namespace Sys2Proof.Machine

/-- R27: a run is promoted into the CURRENT slot and latches its caliper. In PARKED this is work (R142). -/
def Part.promote (p : Part) (r : Run) : Part :=
  let c := (p.stockAt r.stock).caliper
  let p := { p with runs := { p.runs with current := some { r with caliper := some c, state := .current } } }
  p.wake

/-- R26: a PENDING run is promoted into the empty CURRENT slot. -/
def Part.promotePending (p : Part) : Part :=
  match p.runs.pending with
  | none => p
  | some r => ({ p with runs := { p.runs with pending := none } } : Part).promote r

/-- R30: the RUN_DONE of a run. -/
def Run.done (r : Run) : Notice :=
  .runDone r.id r.job r.page r.total r.deposited r.purged r.lost r.unprinted

/-- R29: the runs given, already out of their places, complete: every RUN_DONE is made, in order, and then the job table is told
of each departure (notes/assumptions/16.md). -/
def Part.completeAll (p : Part) (rs : List Run) : Part :=
  rs.foldl (fun p r => p.runDeparted r.job) (rs.foldl (fun p r => p.raise r.done) p)

/-- R29: the runs of the finishing list that no ticket names complete. -/
def Part.completeSettled (p : Part) : Part :=
  let out := p.runs.finishing.filter fun r => !p.ticketNames r.id
  let stay := p.runs.finishing.filter fun r => p.ticketNames r.id
  ({ p with runs := { p.runs with finishing := stay } } : Part).completeAll out

/-- R26, R33: the run leaves the CURRENT slot. -/
def Part.leaveSlot (p : Part) (r : Run) : Part :=
  let p : Part := { p with runs := { p.runs with current := none } }
  let p :=
    if p.ticketNames r.id then
      { p with runs := { p.runs with finishing := p.runs.finishing ++ [{ r with state := .finishing }] } }
    else p.completeAll [r]
  (p.runLeftSlot r.job).promotePending

/-- R26: a sheet was assigned to the CURRENT run; at its total the run leaves the slot. -/
def Part.assigned (p : Part) : Part :=
  match p.runs.current with
  | none => p
  | some r =>
    let r := { r with assigned := r.assigned + 1 }
    if r.assigned = r.total then p.leaveSlot r
    else { p with runs := { p.runs with current := some r } }

/-- R28: a settled ticket is reported to its run, which completes with its last ticket on the finishing list. -/
def Part.reportSettled (p : Part) (ref : Option RunRef) (f : RunRef → Run → Run) : Part :=
  match ref with
  | none => p
  | some ref => (p.modRun ref.run (f ref)).completeSettled

/-- R33: the CURRENT run cut at its assigned count. -/
def Run.cut (r : Run) : Run :=
  { r with selected := r.selected.take r.assigned, unprinted := r.unprinted ++ r.selected.drop r.assigned }

/-- R12, R16, R32: the PENDING run of a job is removed from its slot; its identifier. -/
def Part.withdrawPendingOf (p : Part) (n : Nat) : Part × Option RunId :=
  match p.runs.pending with
  | some r =>
    if r.job = n then ({ p with runs := { p.runs with pending := none } }, some r.id) else (p, none)
  | none => (p, none)

end Sys2Proof.Machine
end

