-- ==== Sys2Proof/Machine/Path.lean ====
section
/-! DEFINITION. The sort path (03): the gate decision, tickets, matching, the loss of tickets. -/

namespace Sys2Proof.Machine

/-! ## The gate decision (R40 to R46) -/

/-- What the gate decision settles for a sheet. -/
structure Decision where
  ref     : Option RunRef
  target  : Target
  caliper : Nat
  deriving DecidableEq, Repr

/-- R43, R61: the page is in the bin's page list or on a ticket in flight to the bin. -/
def Part.isDuplicate (p : Part) (b page : Nat) : Bool :=
  (p.bin b).set.pages.contains page
    || p.path.tickets.any fun t => t.target == .bin b && (t.ref.map RunRef.page) == some page

/-- R60: bin `b` takes a sheet of caliper `c`. -/
def Part.accepts (p : Part) (b c : Nat) : Bool :=
  ((p.bin b).state == .assigned || (p.bin b).state == .filling) && binAccepts (p.bin b).set c

/-- R26: the copy that the run's next sheet is for. -/
def Run.nextCopy (r : Run) : Nat := r.selected.getD r.assigned 0

/-- R41 to R44: the decision for a sheet, from the CURRENT run and the bin of its copy. -/
def Part.decide (p : Part) : Decision :=
  match p.runs.current with
  | none => { ref := none, target := .purge .stray, caliper := 0 }
  | some r =>
    let ref : RunRef := { run := r.id, job := r.job, page := r.page, copy := r.nextCopy }
    let c := r.caliper.getD 0
    let dst : Target :=
      if r.state = .draining then .purge .drain
      else
        let b := ((p.job? r.job).map fun j => j.binOfCopy r.nextCopy).getD 0
        if p.isDuplicate b r.page then .purge .duplicate
        else if p.accepts b c then .bin b
        else .purge .capacity
    { ref := some ref, target := dst, caliper := c }

/-- R60: the reservation of a sheet accepted by bin `b`. -/
def Part.reserve (p : Part) (b c : Nat) : Part :=
  p.modSet b fun s => { s with inboundSheets := s.inboundSheets + 1, inboundMicrons := s.inboundMicrons + c }

/-- R46: the gate for a target. -/
def gateOf : Target → Gate
  | .bin b => .bin b
  | .purge _ => .purge

/-- R46: the sheet of the last entry receives its ticket, and the assignment is reported. -/
def Part.recordTicket (p : Part) (d : Decision) : Part :=
  let t : Ticket :=
    { ordinal := p.path.entryCount, ref := d.ref, target := d.target, caliper := d.caliper, deadline := p.now + ticketTime }
  let p := p.modAccount fun a => { a with inFlight := a.inFlight + 1 }
  let p : Part := { p with path := { p.path with tickets := p.path.tickets ++ [t], gate := gateOf d.target } }
  match d.ref with
  | some _ => p.assigned
  | none => p

/-- R49: a sheet stopped at the entry is counted lost and unticketed. -/
def Part.stopSheet (p : Part) : Part :=
  let p := p.modAccount fun a => { a with lost := a.lost + 1 }
  { p with path := { p.path with unticketed := p.path.unticketed + 1 } }

/-! ## Matching (R47, R50) -/

/-- The oldest ticket that passes a test, and the tickets without it. -/
def takeTicket (f : Ticket → Bool) (ts : List Ticket) : Option (Ticket × List Ticket) :=
  match ts.find? f with
  | some t => some (t, ts.eraseP f)
  | none => none

/-- R50: a PURGE target. -/
def Target.isPurge : Target → Bool
  | .purge _ => true
  | .bin _ => false

/-- R50: the reason of a PURGE target. -/
def Target.reason : Target → PurgeReason
  | .purge r => r
  | .bin _ => .capacity

/-- R47: the sheet of a matched ticket comes to rest in bin `b`. -/
def Part.deposit (p : Part) (b : Nat) (t : Ticket) (rest : List Ticket) : Part :=
  let p : Part := { p with path := { p.path with tickets := rest } }
  let p := p.modAccount Account.flightToBins
  let p := p.appendSheet b ((t.ref.map RunRef.page).getD 0) t.caliper
  p.reportSettled t.ref fun _ r => { r with deposited := r.deposited + 1 }

/-- R50: the sheet of a matched ticket comes to rest in the purge tray. -/
def Part.purgeSheet (p : Part) (t : Ticket) (rest : List Ticket) : Part :=
  let p : Part := { p with path := { p.path with tickets := rest } }
  let p := p.modAccount Account.flightToPurged
  p.reportSettled t.ref fun ref r => { r with purged := r.purged ++ [(ref.copy, t.target.reason)] }

/-- R50: the purge tray count rises, up to 65535. -/
def Part.countPurge (p : Part) : Part :=
  { p with path := { p.path with purgeCount := min 65535 (p.path.purgeCount + 1) } }

/-! ## The loss of tickets (R54, R55) -/

/-- R55: the PATH_LOSS notice. -/
def pathLossOf (ts : List Ticket) (unticketed : Nat) (before : Mode) : Notice :=
  .pathLoss (ts.filterMap fun t => t.ref.map fun r => (r, t.target)) (ts.countP fun t => t.ref.isNone) unticketed before

/-- R54 step 3: the reservation of a lost ticket. -/
def Part.loseReservation (p : Part) (t : Ticket) : Part :=
  match t.target with
  | .bin b => p.releaseReservation b t.caliper
  | .purge _ => p

/-- R54 step 4: the copy of a lost ticket joins its run's lost list. -/
def Part.reportLost (p : Part) (t : Ticket) : Part :=
  match t.ref with
  | some r => p.modRun r.run fun q => { q with lost := q.lost ++ [r.copy] }
  | none => p

/-- R54: every ticket is lost on entry to SERVICE; `before` is the mode before. -/
def Part.loseTickets (p : Part) (before : Mode) : Part :=
  let ts := p.path.tickets
  let p := if ts ≠ [] ∨ 0 < p.path.unticketed then p.raise (pathLossOf ts p.path.unticketed before) else p
  let p : Part := { p with path := { p.path with tickets := [] } }
  let p := p.modAccount fun a => a.flightToLost ts.length
  let p := ts.foldl Part.loseReservation p
  let p := (ts.foldl Part.reportLost p).completeSettled
  { p with path := { p.path with unticketed := 0, stopped := false, gate := .released } }

end Sys2Proof.Machine
end

