-- ==== Sys2Proof/Machine/Service.lean ====
section
/-! DEFINITION. Entering SERVICE (R136), taking a fault (R146, R149), halting (R143), the start of STARTING (R134, R144) and
its end (R135), the completion of a resume (R139). -/

namespace Sys2Proof.Machine

/-! ## Entry to SERVICE -/

/-- R136: the mode becomes SERVICE, and the sort path, the carriage and the conveyor take the entry. -/
def Part.enterService (p : Part) (cause : ModeCause) (fault : Option FaultKind) : Part :=
  let before := p.ctl.mode
  let p : Part := { p with ctl := { p.ctl with parkPending := false, idleTimer := none, wakingDeadline := none } }
  (((p.changeMode .service cause fault).loseTickets before).carriageService).stopConveyor

/-! ## The start of STARTING -/

/-- R74: the stock table after power-on. -/
def powerOnStock : Vector StockEntry Config.numStocks :=
  (Vector.replicate _ { defined := false, caliper := 0 }).set 0 { defined := true, caliper := 100 }

/-- R68: the start-up audit. -/
def startUpAudit (l : Lines) : Vector Bin Config.numBins :=
  Vector.ofFn fun i => if l.binOccupied (i.val + 1) then Bin.orphan else Bin.free

/-- R134, R144: a STARTING interval begins, with the cause POWER_ON, RESTART_REQUEST or SELF_RESTART. The fields are the table
of R144; the press link is reset (R159), and MODE_NOW and the restore's notices are the first of the emptied outbox. -/
def Part.startUp (p : Part) (cause : ModeCause) : Part :=
  let power := cause = .powerOn
  let l := p.lines
  let now := if power then 0 else p.now
  let drawers := p.drawers.restore l
  { now := now
    lines := l
    ctl :=
      { mode := .starting, parkPending := false, idleTime := if power then 600 else p.ctl.idleTime, idleTimer := none
        wakingDeadline := none, resumeFlag := false, doorCycle := .none, doorOpen := l.doorOpen, keyOn := l.keyOn }
    jobs := { jobs := [], queue := [] }
    runs := { current := none, pending := none, finishing := [], nextId := 0 }
    path :=
      { tickets := [], entryCount := 0, unticketed := 0, stopped := false, purgeCount := 0, account := {}
        gate := .released, purgeFull := l.purgeFull }
    bins := startUpAudit l
    stock := if power then powerOnStock else p.stock
    carriage :=
      { queue := [], state := .homing, position := .unknown, held := none, target := some .home
        deadline := some (now + homingTime), wire := if power then 0 else p.carriage.wire }
    conv :=
      { queue := [], state := .idle, trip := none, feeder := .idle, slipLow := l.slipLow, slipOut := l.slipOut
        tray := { sets := 0, stack := 0, heldFull := l.occ.overflow, groups := [] } }
    drawers := drawers
    faults :=
      { first := if power then none else p.faults.first
        later := if power then 0 else p.faults.later
        overwritten := if power then false else p.faults.overwritten
        fatalAction := if power then .halt else p.faults.fatalAction
        attention := 0
        reportMask := if power then 0xFF else p.faults.reportMask
        owed := none }
    out :=
      { reset := true
        notices :=
          .modeNow .starting (if power then none else some p.ctl.mode) cause none l.doorOpen l.keyOn
            :: (p.drawers.restoreChanges drawers).map .drawerChanged } }

/-! ## Faults -/

/-- R115: the conveyor's part of the entry to HALTED. -/
def Part.conveyorHalt (p : Part) : Part :=
  { p with conv := { p.conv with
      state := if p.conv.trip.isSome then .stopped else .idle
      feeder := .idle
      trip := p.conv.trip.map fun t => { t with deadline := none } } }

/-- R143: the part halts. -/
def Part.halt (p : Part) (k : FaultKind) : Part :=
  let p : Part := { p with ctl := { p.ctl with
    parkPending := false, idleTimer := none, wakingDeadline := none, resumeFlag := false } }
  ((p.changeMode .halted .fatalFault (some k)).releaseGate.carriageHalt).conveyorHalt

/-- R146, R149: a fault is taken: recorded, reported, and acted on by its severity and the mode. -/
def Part.raiseFault (p : Part) (k : FaultKind) (loc : Location) (job : Option Nat) : Part :=
  let mode := p.ctl.mode
  let p := p.recordFault { kind := k, location := loc, job := job, mode := mode }
  if isFatal k then
    if mode = .starting ∨ p.faults.fatalAction = .halt then p.halt k else p.startUp .selfRestart
  else
    match mode with
    | .automatic | .parked | .waking => p.enterService .fault (some k)
    | .service => { p with ctl := { p.ctl with resumeFlag := false } }
    | .starting | .halted => p

/-- R53: the sort path raises a path fault. -/
def Part.pathFault (p : Part) (k : FaultKind) (loc : Location) (job : Option Nat) : Part :=
  ({ p with path := { p.path with stopped := true, gate := .released } } : Part).raiseFault k loc job

/-- R49: a sheet is stopped at the entry by a fault without location. -/
def Part.stopAtEntry (p : Part) (k : FaultKind) (job : Option Nat) : Part := p.stopSheet.pathFault k .none job

/-- R90, R94: the carriage is lost. -/
def Part.carriageLost (p : Part) (loc : Location) : Part :=
  let job := p.carriage.held.bind fun h => p.binJob h.bin
  p.stopDrive.raiseFault .carriageLost loc job

/-! ## The carriage is home -/

/-- R135: STARTING ends: the ORPHAN bins are queued, the levels latched, and then the checks made. -/
def Part.endStarting (p : Part) : Part :=
  let p :=
    if p.ctl.doorOpen || p.ctl.keyOn then p.enterService .started none else p.changeMode .automatic .started none
  let p := (allBins.filter fun b => (p.bin b).state == .orphan).foldl Part.appendEject p
  let p := p.latchIf (p.carriage.wire < wireLowMark) .wireLow
  let p := p.latchIf p.conv.slipLow .slipLow
  p.takeCheck.choiceCheck

/-- R139: the resume completes. -/
def Part.completeResume (p : Part) : Part :=
  let p : Part := { p with ctl := { p.ctl with resumeFlag := false } }
  (p.changeMode .automatic .resumed none).takeCheck.choiceCheck

/-- R94: the homing carriage reaches home, and the mode controller is told. -/
def Part.homed (p : Part) : Part :=
  let p : Part := { p with carriage := { p.carriage with
    state := .idle, position := .home, target := none, deadline := none } }
  match p.ctl.mode with
  | .starting => p.endStarting
  | .service => if p.ctl.resumeFlag then p.completeResume else p
  | .automatic => p.takeCheck
  | .parked | .waking | .halted => p

/-! ## Door and key -/

/-- R139, R94, R114: in SERVICE a door opened or a key turned on abandons a resume: the homing and the resumed trip stop
(notes/assumptions/13.md). -/
def Part.abandonResume (p : Part) : Part :=
  let p : Part := { p with ctl := { p.ctl with resumeFlag := false } }
  let p := if p.carriage.state = .homing then p.stopDrive else p
  p.stopConveyor

/-- R137: the act of DOOR_OPENED or KEY_ON by mode, the levels being noted. -/
def Part.intrude (p : Part) (cause : ModeCause) : Part :=
  match p.ctl.mode with
  | .automatic | .parked | .waking => p.enterService cause none
  | .service => p.abandonResume
  | .starting | .halted => p

end Sys2Proof.Machine
end

