-- ==== Sys2Proof/Machine/Delivery.lean ====
section
/-! DEFINITION. The end of a trip (R107 to R112) and the acts of RESUME: the audit (R70 to R72), the conveyor check (R114), the
settlement of the held set (R98). -/

namespace Sys2Proof.Machine

/-! ## The end of a trip -/

/-- R112: the SET_PLACED of a trip. -/
def Trip.report (t : Trip) (place : SetPlace) : Notice :=
  .setPlaced
    { job := t.job, copy := t.copy, bin := t.bin, dest := t.dest, place := place, void := t.void
      outcome := setOutcome t.void t.reason, made := t.made, h := t.h, sheets := t.sheets
      header := if place = .overflow then t.header else none }

/-- R109: a set is laid on the overflow tray under its header. -/
def Tray.lay (tr : Tray) (t : Trip) : Tray :=
  let fresh : Group := { key := t.dest, count := 1, marked := t.header == some .marked }
  let groups :=
    match t.header, tr.groups.getLast? with
    | some .joins, some g => tr.groups.dropLast ++ [{ g with count := g.count + 1 }]
    | _, _ => tr.groups ++ [fresh]
  { tr with sets := tr.sets + 1, stack := tr.stack + t.stack, groups := groups }

/-- R107 step 1: the place records the set. -/
def Part.recordArrival (p : Part) (t : Trip) : Part :=
  match t.place with
  | .drawer d => { p with drawers := p.drawers.arrive d t.stack }
  | .overflow => { p with conv := { p.conv with tray := p.conv.tray.lay t } }

/-- R107: the place as SET_PLACED reports it. -/
def setPlaceOf : Place → SetPlace
  | .drawer d => .drawer d
  | .overflow => .overflow

/-- R107 steps 5 and 6: the trip ends, its job's end is tested and the choice check made. -/
def Part.endTrip (p : Part) (t : Trip) : Part :=
  let p : Part := { p with conv := { p.conv with state := .idle, trip := none } }
  let p := match t.job with
    | some n => p.testEnd n
    | none => p
  p.choiceCheck

/-- R107: the delivery is completed. -/
def Part.deliver (p : Part) (t : Trip) : Part :=
  let p := p.recordArrival t
  let p := p.modAccount fun a => a.returnToPlaced t.sheets
  let p := p.modJobOf t.job fun j => j.tally fun c => c.addArrival (setOutcome t.void t.reason) t.place
  (p.raise (t.report (setPlaceOf t.place))).endTrip t

/-- R114: the set of a trip is reported lost in return; its sheets have been moved to removed. -/
def Part.loseSet (p : Part) (t : Trip) : Part :=
  let p := p.raise (t.report .lostInReturn)
  ({ p with drawers := p.drawers.setAwaited t.place false } : Part).endTrip t

/-- R107: the location of a place. -/
def placeLocation : Place → Location
  | .drawer d => .drawer d
  | .overflow => .none

/-- R107: an ARRIVAL that matches no delivery; with a trip the conveyor stops. -/
def Part.arrivalMismatch (p : Part) (loc : Location) (job : Option Nat) : Part :=
  p.stopConveyor.raiseFault .sensorMismatch loc job

/-- R107: an ARRIVAL by the conveyor's state and the mode. -/
def Part.arrive (p : Part) (place : Place) : Part :=
  match p.ctl.mode with
  | .halted | .starting => p
  | .automatic | .parked | .waking | .service =>
    match p.conv.state with
    | .carrying =>
      match p.conv.trip with
      | none => p
      | some t =>
        if place = t.place then
          if t.emptied then p.deliver t else p.arrivalMismatch (.bin t.bin) t.job
        else p.arrivalMismatch (placeLocation place) t.job
    | .slip => p.arrivalMismatch (placeLocation place) none
    | .idle => if p.ctl.mode = .service then p else p.arrivalMismatch (placeLocation place) none
    | .stopped => p

/-- R108, R114: the carry deadline of a trip expires. -/
def Part.carryExpired (p : Part) (t : Trip) : Part :=
  if t.proving && t.emptied then
    (p.modAccount fun a => a.returnToRemoved t.sheets).loseSet t
  else
    p.stopConveyor.raiseFault .conveyorStall (if t.emptied then placeLocation t.place else .bin t.bin) t.job

/-! ## The RESUME audit (R70 to R72) -/

/-- The numbers the answer to RESUME carries. -/
structure Audit where
  emptied : Nat := 0
  foreign : Nat := 0
  orphan  : Nat := 0
  freed   : Nat := 0
  deriving DecidableEq, Repr

/-- R71: bin `b`'s complete set, sensed gone, leaves the queues and the carriage. -/
def Part.forgetSet (p : Part) (b : Nat) : Part :=
  let p := (p.leaveStitch b).leaveEject b
  { p with carriage := { p.carriage with held := p.carriage.held.filter fun h => h.bin ≠ b } }

/-- R70 to R72: the audit of one bin. -/
def Part.auditBin (p : Part) (a : Audit) (b : Nat) : Part × Audit :=
  let s := (p.bin b).set
  match (p.bin b).state, p.lines.binOccupied b with
  | .filling, false =>
    let p := p.modAccount fun c => c.binsToRemoved s.sheets
    let p := p.modSet b fun s => { s with pages := [], stack := 0, disordered := false, emptied := true }
    (p.setBinState b .assigned, { a with emptied := a.emptied + 1 })
  | .stitchWait, false | .stitching, false | .ejectWait, false =>
    let p := (p.forgetSet b).modAccount fun c => c.binsToRemoved s.sheets
    (p.freeBin b fun t => if s.void then t.dropVoided.addEmpty else t.addEmpty, { a with freed := a.freed + 1 })
  | .orphan, false => ((p.leaveEject b).releaseBin b, { a with freed := a.freed + 1 })
  | .assigned, true => (p.modSet b fun s => { s with foreign := true }, { a with foreign := a.foreign + 1 })
  | .free, true => ((p.setBin b Bin.orphan).joinEject b, { a with orphan := a.orphan + 1 })
  | _, _ => (p, a)

/-- R70: the RESUME audit of bins 1 to 48. -/
def Part.audit (p : Part) : Part × Audit := allBins.foldl (fun r b => r.1.auditBin r.2 b) (p, {})

/-! ## The conveyor check (R114) -/

/-- R114: the trip continues as a proving carry. -/
def Part.startProving (p : Part) : Part :=
  { p with conv := { p.conv with
      state := .carrying
      trip := p.conv.trip.map fun t => { t with proving := true, deadline := some (p.now + carryTime) } } }

/-- R114: the conveyor check of RESUME. -/
def Part.conveyorCheck (p : Part) : Part × Finding :=
  match p.conv.trip with
  | none => (p, .noTrip)
  | some t =>
    let occupied := p.lines.binOccupied t.bin
    if t.header = some .pending then
      if occupied then ((p.modTrip fun t => { t with proving := false }).slipStep, .slipResumed)
      else
        let p := p.modAccount fun a => a.binsToRemoved t.sheets
        ((p.releaseBin t.bin).loseSet t, .setTaken)
    else if !t.emptied && !occupied then
      (((p.modTrip fun t => { t with emptied := true }).releaseBin t.bin).startProving, .proving)
    else (p.startProving, .proving)

/-! ## The held set (R98) -/

/-- R98: the set in bin `b` goes back to the stitch queue at the head of its class. -/
def Part.returnHeld (p : Part) (b : Nat) : Part :=
  let p := p.setBinState b .stitchWait
  let before := p.wireOutLevel
  (p.insertHead b).latchWireOut before

/-- R98: the set in bin `b` is given up after a stitch jam. -/
def Part.giveUp (p : Part) (b : Nat) : Part :=
  let p := p.modSet b fun s => { s with plan := some { s.planned with wire := 0, reason := some .stitchJam } }
  (p.setBinState b .ejectWait).joinEject b

/-- R98: RESUME settles the held set. A cycle still in progress is broken off without its stitch, and its set returned
(notes/assumptions/10.md). -/
def Part.settleHeld (p : Part) : Part × Settlement :=
  match p.carriage.held with
  | none => (p, .none)
  | some h =>
    let (p, r) : Part × Settlement :=
      match h.cond with
      | .jammed => (p.giveUp h.bin, .givenUp)
      | .interrupted => (p.returnHeld h.bin, .returned)
      | .taken =>
        let p := if p.carriage.state = .stitching then p.modSet h.bin fun s => { s with made := s.made - 1 } else p
        (p.returnHeld h.bin, .returned)
    ({ p with carriage := { p.carriage with held := none } }, r)

end Sys2Proof.Machine
end

