-- ==== Sys2Proof/Machine/Requests.lean ====
section
/-! DEFINITION. What each request does once it is taken (R156): the table of requests by mode (R145), and one act for each kind,
which gives the part after it and its answer's result and fields. A refused request leaves the part as it is. -/

namespace Sys2Proof.Machine

/-- R145: the requests each mode accepts. -/
def modeAccepts (m : Mode) (r : RequestKind) : Bool :=
  match r with
  | .identify | .stateQuery | .faultClear | .restart => true
  | .optionSet | .attnClear | .wireLoad => m != .halted
  | .jobOpen | .jobClose | .jobHold | .jobRelease | .jobCancel
  | .runWithdraw | .stockSet | .drawerLock | .drawerUnlock => m != .starting && m != .halted
  | .runPost | .park => m == .automatic || m == .parked || m == .waking
  | .resume => m == .service

/-- What an answer says beside the kind and the tag of its request. -/
structure Reply where
  result : Result
  fields : ReplyFields
  deriving DecidableEq, Repr

/-- The part after a request and the answer to it. -/
structure Acted where
  part  : Part
  reply : Reply
  deriving DecidableEq, Repr

/-- R156: a refusal carries no further field and changes no state. -/
def Part.refuse (p : Part) (r : Result) : Acted := { part := p, reply := { result := r, fields := .empty } }

/-- An accepted request. -/
def Part.accept (p : Part) (r : Result) (f : ReplyFields) : Acted := { part := p, reply := { result := r, fields := f } }

/-! ## Identity, queries and options (R160 to R162) -/

/-- R160. -/
def Part.identify (p : Part) : Acted := p.accept .ok (.identity 0x4F50 4820 1 48 20)

/-- R86: an entry of the stitch queue as a query shows it. -/
def Part.stitchView (p : Part) (b : Nat) : StitchView :=
  let s := (p.bin b).set
  { bin := b, job := s.job, priority := p.priorityOf b, stitches := s.planned.stitches, made := s.made, h := s.planned.h
    need := s.need }

/-- R100: an entry of the eject queue as a query shows it. -/
def Part.ejectView (p : Part) (e : EjectEntry) : EjectView :=
  let s := (p.bin e.bin).set
  { bin := e.bin, job := s.job, copy := s.copy, dest := p.destOf e.bin, stack := s.stack, placeable := e.placeable }

/-- R131: the recency state shown with drawer `d`. -/
def DrawerMap.recency (m : DrawerMap) (d : Nat) : RecencyView :=
  if isFlexible d then .tree m.tree else .marker (m.marker (rowOf d))

/-- R1, R161: the contents of a JOB query. -/
def Part.queryJob (p : Part) (n : Nat) : Except Result Contents :=
  match p.job? n with
  | some j => .ok (.job j)
  | none => .error .noSuchJob

/-- R58: the contents of a BIN query. -/
def Part.queryBin (p : Part) (b : Nat) : Except Result Contents :=
  if binOk b then
    let r := p.bin b
    .ok (.bin r.state (if r.state = .free then none else some r.set))
  else .error .badField

/-- R131: the contents of a DRAWER query. -/
def Part.queryDrawer (p : Part) (d : Nat) : Except Result Contents :=
  if drawerOk d then
    .ok (.drawer (p.drawers.drawer d) (p.drawers.drawer d).label (p.drawers.recency d))
  else .error .badField

/-- R161: the contents of a subject, or the refusal. `l` is the press link once the query itself has left its buffer. -/
def Part.query (p : Part) (l : Link) (subject arg : Nat) : Except Result Contents :=
  match subject with
  | 0 => .ok (.part p.ctl p.stock.toList p.carriage.state p.carriage.position p.carriage.held p.carriage.wire
      (p.carriage.queue.map p.stitchView))
  | 1 => p.queryJob arg
  | 2 => p.queryBin arg
  | 3 => p.queryDrawer arg
  | 4 => .ok (.overflow (p.conv.queue.map p.ejectView) p.conv.state p.conv.trip p.conv.feeder p.conv.slipLow p.conv.slipOut
      p.conv.tray)
  | 5 => .ok (.runs p.runs.current p.runs.pending p.runs.finishing)
  | 6 => .ok (.fault p.faults.first p.faults.later p.faults.overwritten p.faults.fatalAction p.ctl.doorCycle)
  | 7 => .ok (.attention p.faults.attention p.faults.reportMask p.levels p.faults.owed.isSome)
  | 8 => .ok (.account p.path.account p.path.purgeCount p.path.unticketed p.path.stopped p.path.tickets)
  | 9 => .ok (.link l.buffer.length l.noise l.overrun l.outbox.length l.seq)
  | _ => .error .badField

/-- R161. -/
def Part.stateQuery (p : Part) (l : Link) (f : List Byte) : Acted :=
  match p.query l (byteAt f 0) (wordAt f 1) with
  | .ok c => p.accept .ok (.contents c)
  | .error r => p.refuse r

/-- R141, R162: the idle time as it is stored. -/
def storedIdleTime (v : Nat) : Nat := if v = 0 then 0 else clamp 30 3600 v

/-- R141, R162: the idle time is set. In AUTOMATIC with the idle condition holding the timer starts anew. -/
def Part.setIdleTime (p : Part) (v : Nat) : Acted :=
  let stored := storedIdleTime v
  let p : Part := { p with ctl := { p.ctl with idleTime := stored } }
  let p := if p.ctl.mode = .automatic ∧ p.idle then p.startIdleTimer else p
  p.accept (if stored = v then .ok else .okAdjusted) (.option 0 stored)

/-- R162: the fatal action of a value. -/
def fatalActionOf : Nat → Option FatalAction
  | 0 => some .halt
  | 1 => some .restart
  | _ => none

/-- R162. -/
def Part.optionSet (p : Part) (f : List Byte) : Acted :=
  let v := wordAt f 1
  match byteAt f 0 with
  | 0 => p.setIdleTime v
  | 1 =>
    match fatalActionOf v with
    | some a => ({ p with faults := { p.faults with fatalAction := a } } : Part).accept .ok (.option 1 v)
    | none => p.refuse .badField
  | 2 =>
    if v ≤ 255 then
      ({ p with faults := { p.faults with reportMask := BitVec.ofNat 8 v } } : Part).accept .ok (.option 2 v)
    else p.refuse .badField
  | _ => p.refuse .badField

/-! ## Jobs (R4 to R16) -/

/-- R5: the record a JOB_OPEN's fields give, if every field is in range. -/
def JobOpenFields.record (j : JobOpenFields) : Option Job :=
  if j.number = 0 ∨ j.copies = 0 ∨ 48 < j.copies ∨ j.dest = 0 ∨ 4095 < j.dest then none
  else
    match priorityOf j.priority, patternOf j.pattern, disorderOf j.disorder, wireRuleOf j.wireRule with
    | some pr, some pa, some di, some wr =>
      some { number := j.number, dest := j.dest, copies := j.copies, priority := pr, pattern := pa, disorder := di
             wireRule := wr, state := .waiting, bins := [], closeRequested := false, tallies := {} }
    | _, _, _, _ => none

/-- R5, R6: an accepted job enters the table and the bin wait queue; the grant check is made if it became the head. -/
def Part.admitJob (p : Part) (j : Job) : Part :=
  let q := p.enqueueJob j.number j.priority
  let p : Part := { p with jobs := { jobs := p.jobs.jobs ++ [j], queue := q } }
  if q.head? = some j.number then p.grantCheck else p

/-- R5. -/
def Part.jobOpen (p : Part) (f : List Byte) : Acted :=
  match (jobOpenFields f).record with
  | none => p.refuse .badField
  | some j =>
    if (p.job? j.number).isSome then p.refuse .jobExists
    else if jobLimit ≤ p.jobs.jobs.length then p.refuse .tableFull
    else (p.admitJob j).accept .ok .empty

/-- R4 checks 3 and 4: the job a request names. -/
def Part.named (p : Part) (f : List Byte) : Except Result Job :=
  if wordAt f 0 = 0 then .error .badField
  else match p.job? (wordAt f 0) with
    | some j => .ok j
    | none => .error .noSuchJob

/-- R9: the close of job `j` is asked for. -/
def Part.closeJob (p : Part) (j : Job) : Acted :=
  let p := p.modJob j.number fun j => { j with closeRequested := true }
  if p.workInHand j.number then (p.setJobState j.number .closing).accept .okDeferred .empty
  else ((p.closeTakesEffect j.number).examineIdle).accept .ok .empty

/-- R9. -/
def Part.jobClose (p : Part) (f : List Byte) : Acted :=
  match p.named f with
  | .error r => p.refuse r
  | .ok j =>
    match j.state with
    | .active | .holding | .held => p.closeJob j
    | .closing => p.accept .okDeferred .empty
    | .waiting | .finishing | .cancelling => p.refuse .jobState

/-- The CURRENT slot holds a run of the job. -/
def Part.isCurrent (p : Part) (n : Nat) : Bool := (p.runs.current.map Run.job) == some n

/-- R12: an ACTIVE job is held. -/
def Part.holdJob (p : Part) (n : Nat) : Acted :=
  let (p, id) := p.withdrawPendingOf n
  let p :=
    if p.isCurrent n then p.setJobState n .holding
    else (p.setJobState n .held).raise (.jobHeld n)
  p.accept .ok (.withdrawn id)

/-- R12. -/
def Part.jobHold (p : Part) (f : List Byte) : Acted :=
  match p.named f with
  | .error r => p.refuse r
  | .ok j =>
    match j.state with
    | .active => p.holdJob j.number
    | .holding | .held => p.accept .ok (.withdrawn none)
    | .waiting | .closing | .finishing | .cancelling => p.refuse .jobState

/-- R14. -/
def Part.jobRelease (p : Part) (f : List Byte) : Acted :=
  match p.named f with
  | .error r => p.refuse r
  | .ok j =>
    match j.state with
    | .holding | .held => (p.setJobState j.number .active).accept .ok .empty
    | .active => p.accept .ok .empty
    | .waiting | .closing | .finishing | .cancelling => p.refuse .jobState

/-- R15: a WAITING job is withdrawn. -/
def Part.dropWaiting (p : Part) (n : Nat) : Part :=
  let head := p.jobs.queue.head? = some n
  let p : Part := { p with jobs := { p.jobs with queue := p.jobs.queue.filter fun m => m ≠ n } }
  let p := p.dropJob n
  if head then p.grantCheck else p

/-- R31: the CURRENT run of a job is set draining. -/
def Part.drainCurrent (p : Part) (n : Nat) : Part :=
  { p with runs := { p.runs with
      current := p.runs.current.map fun r => if r.job = n then { r with state := .draining } else r } }

/-- R16: a granted job is cancelled. -/
def Part.cancelJob (p : Part) (j : Job) : Part × Option RunId :=
  let p := p.setJobState j.number .cancelling
  let (p, id) := p.withdrawPendingOf j.number
  let p := p.drainCurrent j.number
  ((j.heldBins.foldl Part.voidBin p).testEnd j.number, id)

/-- R15, R16. -/
def Part.jobCancel (p : Part) (f : List Byte) : Acted :=
  match p.named f with
  | .error r => p.refuse r
  | .ok j =>
    match j.state with
    | .waiting => (p.dropWaiting j.number).accept .ok (.withdrawn none)
    | .active | .holding | .held | .closing | .finishing =>
      let (p, id) := p.cancelJob j
      p.examineIdle.accept .ok (.withdrawn id)
    | .cancelling => p.refuse .jobState

/-! ## Runs (R23 to R25, R32, R33) -/

/-- R23 check 3: the fields in themselves. -/
def RunPostFields.ok (r : RunPostFields) : Bool :=
  r.job != 0 && 1 ≤ r.page && r.page ≤ 60 && r.stock ≤ 7
    && ((r.form == 0 && r.count == 0) || (r.form == 1 && 1 ≤ r.count && r.count ≤ 48))
    && r.copies.all fun k => 1 ≤ k && k ≤ 48

/-- R24: the selected-copy list. -/
def RunPostFields.selected (r : RunPostFields) (j : Job) : List Nat :=
  if r.form = 0 then List.range' 1 j.copies
  else (List.range' 1 48).filter fun k => r.copies.contains k

/-- R24: OK_ADJUSTED when the list was changed. -/
def RunPostFields.result (r : RunPostFields) (j : Job) : Result :=
  if r.form = 0 ∨ r.selected j = r.copies then .ok else .okAdjusted

/-- R23 checks 3 to 8: the job of an accepted RUN_POST. -/
def Part.checkPost (p : Part) (r : RunPostFields) : Except Result Job :=
  if !r.ok then .error .badField
  else match p.job? r.job with
    | none => .error .noSuchJob
    | some j =>
      if r.copies.any fun k => j.copies < k then .error .badField
      else if !(p.stockAt r.stock).defined then .error .stockUndefined
      else if j.state ≠ .active then .error .jobState
      else if p.runs.current.isSome && p.runs.pending.isSome then .error .slotsFull
      else .ok j

/-- R25: the record of an accepted run. -/
def RunPostFields.run (r : RunPostFields) (j : Job) (id : RunId) : Run :=
  { id := id, job := r.job, page := r.page, stock := r.stock, caliper := none, selected := r.selected j, assigned := 0
    deposited := 0, purged := [], lost := [], unprinted := [], state := .pending }

/-- R20, R25: an accepted run takes its identifier and its slot. -/
def Part.admitRun (p : Part) (q : Run) : Part × Slot :=
  let p : Part := { p with ctl := { p.ctl with parkPending := false }, runs := { p.runs with nextId := q.id + 1 } }
  if p.runs.current.isNone then (p.promote q, .current)
  else ({ p with runs := { p.runs with pending := some q } }, .pending)

/-- R23 to R25. -/
def Part.runPost (p : Part) (f : List Byte) : Acted :=
  let r := runPostFields f
  match p.checkPost r with
  | .error e => p.refuse e
  | .ok j =>
    let q := r.run j p.runs.takeId
    let (p, slot) := p.admitRun q
    p.examineIdle.accept (r.result j) (.posted q.id slot q.total)

/-- R33: the CURRENT run is cut at its assigned count and leaves its slot. -/
def Part.cutCurrent (p : Part) (r : Run) : Acted :=
  ((p.leaveSlot r.cut).examineIdle).accept .ok (.cut .current r.cut.total (r.total - r.cut.total))

/-- R32: the PENDING run is removed from its slot. -/
def Part.dropPending (p : Part) (r : Run) : Acted :=
  let p : Part := { p with runs := { p.runs with pending := none } }
  ((p.runDeparted r.job).examineIdle).accept .ok (.cut .pending 0 0)

/-- R32, R33. -/
def Part.runWithdraw (p : Part) (f : List Byte) : Acted :=
  let id : RunId := f.getD 0 0
  match p.runs.current.filter fun r => r.id = id with
  | some r => p.cutCurrent r
  | none =>
    match p.runs.pending.filter fun r => r.id = id with
    | some r => p.dropPending r
    | none => p.refuse (if p.runs.finishing.any fun r => r.id == id then .jobState else .badField)

/-! ## Stock and wire (R75, R95) -/

/-- R75. -/
def Part.stockSet (p : Part) (f : List Byte) : Acted :=
  let c := byteAt f 0
  let v := wordAt f 1
  if 7 < c then p.refuse .badField
  else
    let stored := clamp 50 400 v
    let slot := p.runs.current.isSome || p.runs.pending.isSome
    let result : Result := if stored ≠ v then .okAdjusted else if slot then .okDeferred else .ok
    (p.setStock c { defined := true, caliper := stored }).accept result (.caliper stored slot)

/-- R95. -/
def Part.wireLoad (p : Part) (f : List Byte) : Acted :=
  let v := longAt f 0
  let stored := min wireLimit v
  (((p.setWire stored).takeCheck).examineIdle).accept (if stored = v then .ok else .okAdjusted) (.wire stored)

/-! ## Locks (R126 to R128) -/

/-- R126, R127. -/
def Part.drawerLock (p : Part) (f : List Byte) : Acted :=
  let d := byteAt f 0
  let dest := wordAt f 1
  match p.drawers.checkLock d dest with
  | some r => p.refuse r
  | none =>
    if (p.drawers.drawer d).locked && (p.drawers.drawer d).dest == some dest then p.accept .ok .empty
    else ((p.drawerAct (p.drawers.lock d dest)).choiceCheck.examineIdle).accept .ok .empty

/-- R128. -/
def Part.drawerUnlock (p : Part) (f : List Byte) : Acted :=
  let d := byteAt f 0
  if !drawerOk d then p.refuse .badField
  else if !isFlexible d then p.refuse .notFlexible
  else if (p.drawers.drawer d).locked then
    ((p.drawerAct (p.drawers.unlock d)).choiceCheck.examineIdle).accept .ok .empty
  else p.accept .ok .empty

/-! ## Attention and faults (R150, R152) -/

/-- R152: the conditions an ATTN_CLEAR names, if it is well formed. -/
def attnNamed (f : List Byte) : Option (List Condition) :=
  if byteAt f 0 = 0 ∨ 8 < byteAt f 0 then none else (attnCodes f).mapM conditionOf

/-- R152. -/
def Part.attnClear (p : Part) (f : List Byte) : Acted :=
  match attnNamed f with
  | none => p.refuse .badField
  | some cs =>
    let q := cs.foldl Part.clearCondition p
    q.accept .ok (.attention p.faults.attention q.faults.attention)

/-- R150. -/
def Part.faultClear (p : Part) : Acted :=
  ({ p with faults := { p.faults with first := none, later := 0, overwritten := false } } : Part).accept .ok
    (.fault p.faults.first p.faults.later p.faults.overwritten)

/-! ## Resume, park, restart (R139, R140, R144) -/

/-- R139: the acts of an accepted RESUME. -/
def Part.beginResume (p : Part) : Acted :=
  let p : Part := { p with ctl := { p.ctl with resumeFlag := true } }
  let (p, a) := p.audit
  let (p, finding) := p.conveyorCheck
  let (p, settlement) := p.settleHeld
  p.startHoming.accept .ok (.resumed a.emptied a.foreign a.orphan a.freed finding settlement)

/-- R139 checks 3 to 5. -/
def Part.resume (p : Part) : Acted :=
  if p.ctl.resumeFlag then p.accept .okDeferred .empty
  else if p.ctl.doorOpen || p.ctl.keyOn then p.refuse .doorOpen
  else if p.ctl.doorCycle ≠ .none then p.refuse .pathNotCleared
  else p.beginResume

/-- R140: the effect of PARK by mode. -/
def Part.parkRequest (p : Part) : Acted :=
  let later := ({ p with ctl := { p.ctl with parkPending := true } } : Part).accept .okDeferred .empty
  match p.ctl.mode with
  | .automatic => if p.idle then (p.park .park).accept .ok .empty else later
  | .waking => later
  | .parked => p.accept .ok .empty
  | .starting | .service | .halted => p.refuse .wrongMode

/-- R144: RESTART is answered OK; the restart begins once the answer has left the link. -/
def Part.restartRequest (p : Part) : Acted := p.accept .ok .empty

/-! ## The checks of R156 -/

/-- R156 check 5: the request's own rule. -/
def Part.act (p : Part) (l : Link) (r : RequestKind) (f : List Byte) : Acted :=
  match r with
  | .identify => p.identify
  | .stateQuery => p.stateQuery l f
  | .optionSet => p.optionSet f
  | .jobOpen => p.jobOpen f
  | .jobClose => p.jobClose f
  | .jobHold => p.jobHold f
  | .jobRelease => p.jobRelease f
  | .jobCancel => p.jobCancel f
  | .runPost => p.runPost f
  | .runWithdraw => p.runWithdraw f
  | .stockSet => p.stockSet f
  | .wireLoad => p.wireLoad f
  | .drawerLock => p.drawerLock f
  | .drawerUnlock => p.drawerUnlock f
  | .attnClear => p.attnClear f
  | .faultClear => p.faultClear
  | .resume => p.resume
  | .park => p.parkRequest
  | .restart => p.restartRequest

/-- R156 checks 3 to 5: the mode, the length, the request's own rule. -/
def Part.request (p : Part) (l : Link) (r : RequestKind) (f : List Byte) : Acted :=
  if !modeAccepts p.ctl.mode r then p.refuse .wrongMode
  else if !lengthOk r f then p.refuse .badLength
  else p.act l r f

end Sys2Proof.Machine
end

