-- ==== Sys2Proof/Machine/Link.lean ====
section
/-! DEFINITION. The press link (11): the receiver, the receive buffer, the taking of requests, the outbox, the transmitter. -/

namespace Sys2Proof.Machine

/-! ## Notices (R153, R158) -/

/-- R153: NOTICE_LOST is latched for a discarded notice; its ATTN_RAISED, if its mask bit is on, is owed. -/
def State.loseNotice (s : State) : State :=
  let f := s.part.faults
  if hasCondition f.attention .noticeLost then s
  else
    let set := f.attention ||| conditionMask .noticeLost
    let owed := if hasCondition f.reportMask .noticeLost then some set else f.owed
    { s with part := { s.part with faults := { f with attention := set, owed := owed } } }

/-- R158: a notice is offered to the outbox and takes the next number, queued or discarded. -/
def State.offer (s : State) (n : Notice) : State :=
  let seq := s.link.seq
  let s : State := { s with link := { s.link with seq := seq + 1 } }
  if s.link.outbox.length < outboxLimit then
    { s with link := { s.link with outbox := s.link.outbox ++ [{ seq := seq, notice := n }] } }
  else s.loseNotice

/-- R153: a notice has left the outbox; an owed ATTN_RAISED takes the freed place. -/
def State.payOwed (s : State) : State :=
  match s.part.faults.owed with
  | none => s
  | some set =>
    ({ s with part := { s.part with faults := { s.part.faults with owed := none } } } : State).offer
      (.attnRaised .noticeLost set)

/-- R158: a free transmitter sends the waiting answer, else the oldest notice. -/
def State.transmit (s : State) : State :=
  match s.link.sending with
  | some _ => s
  | none =>
    match s.link.answer, s.link.outbox with
    | some a, _ => { s with link := { s.link with sending := some (.answer a), answer := none } }
    | none, n :: rest =>
      ({ s with link := { s.link with sending := some (.notice n), outbox := rest } } : State).payOwed
    | none, [] => s

/-- R159: the press link is reset. The frame in transmission and a waiting answer stand (notes/assumptions/7.md). -/
def Link.reset (l : Link) : Link :=
  { l with rx := .idle, buffer := [], outbox := [], noise := 0, overrun := 0, seq := 0 }

/-- R155, R159: the act is done: the reset it asked for is made, and its notices are offered in order, a free transmitter
starting at once. -/
def State.flush (s : State) : State :=
  let ns := s.part.out.notices
  let link := if s.part.out.reset then s.link.reset else s.link
  ns.foldl (fun s n => (s.offer n).transmit)
    { s with part := { s.part with out := { reset := false, notices := [] } }, link := link }

/-- An act of the part's blocks is made and what it raises is handed to the press link. -/
def State.act (s : State) (f : Part → Part) : State := ({ s with part := f s.part } : State).flush

/-! ## Taking requests (R155, R156) -/

/-- R156: the part after a taken frame and the answer to it. -/
def State.answerTo (s : State) (body : List Byte) : Part × Answer :=
  let bad (k tag : Byte) (r : Result) : Part × Answer := (s.part, { kind := k, tag := tag, result := r, fields := .empty })
  match body with
  | [] => bad 0 0 .badLength
  | [k] => bad k 0 .badLength
  | k :: tag :: f =>
    match requestOf k with
    | none => bad k tag .unknownKind
    | some r =>
      let a := s.part.request s.link r f
      (a.part, { kind := k, tag := tag, result := a.reply.result, fields := a.reply.fields })

/-- R155: a request is taken whole: its checks and its act, its answer, then the notices of its act. -/
def State.takeBody (s : State) (body : List Byte) : State :=
  let (p, a) := s.answerTo body
  (({ s with part := p, link := { s.link with answer := some a } } : State).transmit).flush

/-- R144: the answer is an accepted RESTART's. -/
def Answer.isRestart (a : Answer) : Bool := a.kind == requestCode .restart && a.result == .ok

/-- R144: the frame is an accepted RESTART's answer. -/
def Sent.isRestart : Sent → Bool
  | .answer a => a.isRestart
  | .notice _ => false

/-- R144: a RESTART has been accepted and has not begun; the frames that follow it are not taken (notes/assumptions/25.md). -/
def Link.restartOwed (l : Link) : Bool :=
  (match l.answer with | some a => a.isRestart | none => false)
    || (match l.sending with | some x => x.isRestart | none => false)

/-- R155: the oldest frame may be taken. -/
def Link.mayTake (l : Link) : Bool := l.answer.isNone && !l.restartOwed

/-- R155: frames are taken from the buffer while no answer waits; each turn takes one. -/
def State.takeFrames : Nat → State → State
  | 0, s => s
  | fuel + 1, s =>
    if s.link.mayTake then
      match s.link.buffer with
      | [] => s
      | body :: rest => State.takeFrames fuel (({ s with link := { s.link with buffer := rest } } : State).takeBody body)
    else s

/-- R155: the press link takes what it can. -/
def State.pump (s : State) : State := s.takeFrames (s.link.buffer.length + 1)

/-! ## The receiver (R154) -/

/-- A count that stops at 65535 (R154, R155). -/
def bump (n : Nat) : Nat := min 65535 (n + 1)

/-- R154: a frame is discarded: the noise counter rises and LINK_NOISE is latched. -/
def State.discard (s : State) : State :=
  ({ s with link := { s.link with rx := .idle, noise := bump s.link.noise } } : State).act fun p => p.latch .linkNoise

/-- R154, R155: a frame is complete: it enters the receive buffer, or is an overrun. -/
def State.complete (s : State) (body : List Byte) : State :=
  if s.link.buffer.length < bufferLimit then
    ({ s with link := { s.link with buffer := s.link.buffer ++ [body] } } : State).pump
  else { s with link := { s.link with overrun := bump s.link.overrun } }

/-- R154: one byte arrives on the receive line. -/
def State.receive (s : State) (b : Byte) : State :=
  match s.link.rx with
  | .idle => if b = 0xA5 then { s with link := { s.link with rx := .length } } else s
  | .length =>
    if b = 0 ∨ 250 < b.toNat then s.discard
    else { s with link := { s.link with rx := .body b.toNat [] } }
  | .body n got =>
    if got.length < n then { s with link := { s.link with rx := .body n (got ++ [b]) } }
    else if crc8 (BitVec.ofNat 8 n :: got) = b then ({ s with link := { s.link with rx := .idle } } : State).complete got
    else s.discard

/-- R154: a whole frame with this body arrives, its check right; a body that no length byte can name is discarded. -/
def State.frameArrives (s : State) (body : List Byte) : State :=
  if body.length = 0 ∨ 250 < body.length then
    ({ s with link := { s.link with noise := bump s.link.noise } } : State).act fun p => p.latch .linkNoise
  else s.complete body

/-- A request frame of a kind arrives. -/
def State.requestArrives (s : State) (r : RequestKind) (tag : Byte) (f : List Byte) : State :=
  s.frameArrives (requestCode r :: tag :: f)

/-- The occupancy sensors are sampled. -/
def State.sample (s : State) (occ : Occupancy) : State := { s with part := s.part.sample occ }

/-- R158: the transmitter finishes its frame. The end of a RESTART's answer begins the restart (R144); otherwise the next frame
starts and the next request may be taken. -/
def State.frameEnds (s : State) : State :=
  match s.link.sending with
  | none => s
  | some x =>
    let s : State := { s with link := { s.link with sending := none } }
    if x.isRestart then s.act fun p => p.startUp .restartRequest
    else s.transmit.pump

end Sys2Proof.Machine
end

