-- ==== Sys2Proof/Machine/PathEvents.lean ====
section
/-! DEFINITION. The events of the sort path (R39): ENTRY, DEPOSIT, PURGE_ARRIVAL, PURGE_FULL_ON, PURGE_FULL_OFF,
TICKET_DEADLINE. -/

namespace Sys2Proof.Machine

/-- R143: in HALTED every sensor event and deadline is ignored. -/
def Part.unlessHalted (p : Part) (f : Part → Part) : Part := if p.ctl.mode = .halted then p else f p

/-- The mode is PARKED or WAKING (R39). -/
def Part.quiet (p : Part) : Bool := p.ctl.mode == .parked || p.ctl.mode == .waking

/-! ## ENTRY -/

/-- R45, R46: a decided sheet receives its ticket, or is stopped by a full purge tray. -/
def Part.settleDecision (p : Part) (d : Decision) : Part :=
  match d.target with
  | .bin b => ((p.reserve b d.caliper).recordTicket d).examineIdle
  | .purge _ =>
    if p.path.purgeFull then p.stopAtEntry .purgeFull (d.ref.map RunRef.job)
    else (p.recordTicket d).examineIdle

/-- R40 to R46: the gate decision of a sheet. -/
def Part.gateDecision (p : Part) : Part :=
  let p := p.enterSheet
  if ticketLimit ≤ p.path.tickets.length then p.stopAtEntry .pathOverrun none
  else
    let d := p.decide
    (p.latchIf d.ref.isNone .straySheet).settleDecision d

/-- R39, R49: ENTRY. -/
def Part.onEntry (p : Part) : Part :=
  if p.path.stopped then p
  else if p.ctl.mode = .automatic then p.gateDecision
  else if p.quiet then p.enterSheet.stopAtEntry .earlySheet none
  else p

/-- ENTRY. -/
def execEntry (s : State) : Host.Outcome State Fault Refusal := .next (s.act Part.onEntry)

/-! ## DEPOSIT -/

/-- R48: a deposit without a ticket. -/
def Part.depositMismatch (p : Part) (b : Nat) : Part := p.pathFault .sensorMismatch (.bin b) (p.binJob b)

/-- R39, R47, R48: DEPOSIT(b). -/
def Part.onDeposit (p : Part) (b : Nat) : Part :=
  if p.path.stopped then p
  else if p.ctl.mode = .automatic then
    match takeTicket (fun t => t.target == .bin b) p.path.tickets with
    | some (t, rest) => (p.deposit b t rest).examineIdle
    | none => p.depositMismatch b
  else if p.quiet then p.depositMismatch b
  else p

/-- DEPOSIT(b). -/
def execDeposit (b : Nat) (s : State) : Host.Outcome State Fault Refusal :=
  if binOk b then .next (s.act fun p => p.onDeposit b) else .fault (.noSuchBin b)

/-! ## PURGE_ARRIVAL -/

/-- R50: an arrival in the purge tray without a ticket. -/
def Part.purgeMismatch (p : Part) : Part := p.pathFault .sensorMismatch .none none

/-- R39, R50: PURGE_ARRIVAL, outside HALTED. -/
def Part.onPurgeArrival (p : Part) : Part :=
  let p := p.countPurge
  if p.path.stopped then p
  else if p.ctl.mode = .automatic then
    match takeTicket (fun t => t.target.isPurge) p.path.tickets with
    | some (t, rest) => (p.purgeSheet t rest).examineIdle
    | none => p.purgeMismatch
  else if p.quiet then p.purgeMismatch
  else p

/-- PURGE_ARRIVAL. -/
def execPurgeArrival (s : State) : Host.Outcome State Fault Refusal :=
  .next (s.act fun p => p.unlessHalted Part.onPurgeArrival)

/-! ## The purge tray full sensor -/

/-- The purge tray full sensor stands at a level. -/
def Part.setPurgeFullLine (p : Part) (on : Bool) : Part := { p with lines := { p.lines with purgeFull := on } }

/-- R52: the full sensor turns on: the level is noted. -/
def Part.onPurgeFullOn (p : Part) : Part := { p with path := { p.path with purgeFull := true } }

/-- R52: the full sensor turns off: the level is noted and the purge tray count set to 0. -/
def Part.onPurgeFullOff (p : Part) : Part := { p with path := { p.path with purgeFull := false, purgeCount := 0 } }

/-- PURGE_FULL_ON. -/
def execPurgeFullOn (s : State) : Host.Outcome State Fault Refusal :=
  .next (s.act fun p => (p.setPurgeFullLine true).unlessHalted Part.onPurgeFullOn)

/-- PURGE_FULL_OFF. -/
def execPurgeFullOff (s : State) : Host.Outcome State Fault Refusal :=
  .next (s.act fun p => (p.setPurgeFullLine false).unlessHalted Part.onPurgeFullOff)

/-! ## TICKET_DEADLINE -/

/-- R51: the location of a jam. -/
def targetLocation : Target → Location
  | .bin b => .bin b
  | .purge _ => .none

/-- R39, R51: the deadline of the oldest ticket expires. -/
def Part.onTicketDeadline (p : Part) : Part :=
  if p.pathOpen then
    match p.path.tickets with
    | [] => p
    | t :: _ => (p.reach t.deadline).pathFault .pathJam (targetLocation t.target) (t.ref.map RunRef.job)
  else p

/-- TICKET_DEADLINE. -/
def execTicketDeadline (s : State) : Host.Outcome State Fault Refusal := .next (s.act Part.onTicketDeadline)

end Sys2Proof.Machine
end

