-- ==== Sys2Proof/Machine/CarriageEvents.lean ====
section
/-! DEFINITION. The events of the stitching carriage (R90 to R94): CARRIAGE_AT, TRAVEL_DEADLINE, STITCH_DONE,
STITCH_CYCLE_DEADLINE, CARRIAGE_HOME, HOMING_DEADLINE. Those that may raise the fatal fault sample the occupancy sensors that a
self-restart reads (notes/assumptions/2.md). -/

namespace Sys2Proof.Machine

/-- R90: CARRIAGE_AT(c). -/
def Part.onCarriageAt (p : Part) (c : Nat) : Part :=
  match p.carriage.state, p.carriage.target with
  | .travelling, some (.bin b) =>
    if c = b then (p.startCycle b).takeCheck.examineIdle else p.carriageLost (.bin c)
  | _, _ => p

/-- CARRIAGE_AT(c). -/
def execCarriageAt (c : Nat) (occ : Occupancy) (s : State) : Host.Outcome State Fault Refusal :=
  if binOk c then .next ((s.sample occ).act fun p => p.unlessHalted fun p => p.onCarriageAt c) else .fault (.noSuchBin c)

/-- R90: the travel deadline expires. -/
def Part.onTravelDeadline (p : Part) : Part :=
  match p.carriage.state, p.carriage.target, p.carriage.deadline with
  | .travelling, some (.bin b), some t => (p.reach t).carriageLost (.bin b)
  | _, _, _ => p

/-- TRAVEL_DEADLINE. -/
def execTravelDeadline (occ : Occupancy) (s : State) : Host.Outcome State Fault Refusal :=
  .next ((s.sample occ).act fun p => p.unlessHalted Part.onTravelDeadline)

/-- R97: a cycle that ends in SERVICE short of the plan: the carriage stops at the bin. -/
def Part.interruptCycle (p : Part) (b : Nat) : Part :=
  { p with carriage := { p.carriage with
      state := .stopped, position := .bin b, target := none, deadline := none
      held := some { bin := b, cond := .interrupted } } }

/-- R92, R97: STITCH_DONE. -/
def Part.onStitchDone (p : Part) : Part :=
  match p.carriage.state, p.carriage.held with
  | .stitching, some h =>
    if (p.bin h.bin).set.planned.stitches ≤ (p.bin h.bin).set.made then (p.handOn h.bin).examineIdle
    else if p.ctl.mode = .service then p.interruptCycle h.bin
    else (p.startCycle h.bin).takeCheck.examineIdle
  | _, _ => p

/-- STITCH_DONE. -/
def execStitchDone (s : State) : Host.Outcome State Fault Refusal :=
  .next (s.act fun p => p.unlessHalted Part.onStitchDone)

/-- R93: the stitch head has jammed on the set in bin `b`. -/
def Part.stitchJam (p : Part) (b : Nat) : Part :=
  let p := p.modSet b fun s => { s with made := s.made - 1 }
  let p : Part := { p with carriage := { p.carriage with
    state := .stopped, position := .bin b, target := none, deadline := none
    held := some { bin := b, cond := .jammed } } }
  p.raiseFault .stitchJam (.bin b) (p.binJob b)

/-- R93: the stitch cycle deadline expires. -/
def Part.onStitchCycleDeadline (p : Part) : Part :=
  match p.carriage.state, p.carriage.held, p.carriage.deadline with
  | .stitching, some h, some t => (p.reach t).stitchJam h.bin
  | _, _, _ => p

/-- STITCH_CYCLE_DEADLINE. -/
def execStitchCycleDeadline (s : State) : Host.Outcome State Fault Refusal :=
  .next (s.act fun p => p.unlessHalted Part.onStitchCycleDeadline)

/-- R90, R94: CARRIAGE_HOME. -/
def Part.onCarriageHome (p : Part) : Part :=
  match p.carriage.state with
  | .homing => p.homed.examineIdle
  | .travelling => p.carriageLost .none
  | .idle | .stitching | .stopped => p

/-- CARRIAGE_HOME. -/
def execCarriageHome (occ : Occupancy) (s : State) : Host.Outcome State Fault Refusal :=
  .next ((s.sample occ).act fun p => p.unlessHalted Part.onCarriageHome)

/-- R94: the homing deadline expires. -/
def Part.onHomingDeadline (p : Part) : Part :=
  match p.carriage.state, p.carriage.deadline with
  | .homing, some t => (p.reach t).carriageLost .none
  | _, _ => p

/-- HOMING_DEADLINE. -/
def execHomingDeadline (occ : Occupancy) (s : State) : Host.Outcome State Fault Refusal :=
  .next ((s.sample occ).act fun p => p.unlessHalted Part.onHomingDeadline)

end Sys2Proof.Machine
end

