-- ==== Sys2Proof/Machine/ConveyorEvents.lean ====
section
/-! DEFINITION. The events of the return conveyor, the overflow tray and the drawers (R104 to R110, R125): BIN_EMPTIED,
SLIP_FED, SLIP_FEED_DEADLINE, SLIP_LOW, SLIP_OUT, ARRIVAL, CARRY_DEADLINE, OVERFLOW_EMPTIED, COLLECTED. -/

namespace Sys2Proof.Machine

/-! ## BIN_EMPTIED -/

/-- R106: BIN_EMPTIED(b). -/
def Part.onBinEmptied (p : Part) (b : Nat) : Part :=
  match p.conv.state, p.conv.trip with
  | .carrying, some t =>
    if t.bin = b ∧ t.emptied = false then ((p.modTrip fun t => { t with emptied := true }).releaseBin b).examineIdle else p
  | _, _ => p

/-- BIN_EMPTIED(b). -/
def execBinEmptied (b : Nat) (s : State) : Host.Outcome State Fault Refusal :=
  if binOk b then
    .next (s.act fun p => ({ p with lines := p.lines.clearBin b } : Part).unlessHalted fun p => p.onBinEmptied b)
  else .fault (.noSuchBin b)

/-! ## The slip feeder -/

/-- R104: the slip step ends with a header, and the ejector starts. -/
def Part.endSlip (p : Part) (h : Header) : Part :=
  (({ p with conv := { p.conv with feeder := .idle } } : Part).modTrip fun t =>
    { t with header := some h, deadline := none }).startEjector

/-- R104, R110: SLIP_FED. -/
def Part.onSlipFed (p : Part) : Part :=
  if p.conv.state = .slip then
    let tray := p.conv.tray
    ({ p with conv := { p.conv with tray := { tray with stack := tray.stack + slipMicrons } } } : Part).endSlip .marked
  else p

/-- SLIP_FED. -/
def execSlipFed (s : State) : Host.Outcome State Fault Refusal := .next (s.act fun p => p.unlessHalted Part.onSlipFed)

/-- R104: the slip feed deadline expires. -/
def Part.onSlipFeedDeadline (p : Part) : Part :=
  match p.conv.state, p.conv.trip.bind Trip.deadline with
  | .slip, some t => ((p.reach t).latch .slipEmpty).endSlip .unmarked
  | _, _ => p

/-- SLIP_FEED_DEADLINE. -/
def execSlipFeedDeadline (s : State) : Host.Outcome State Fault Refusal :=
  .next (s.act fun p => p.unlessHalted Part.onSlipFeedDeadline)

/-- R104, R151: SLIP_LOW: the level is noted; a sensor reported on is latched, outside STARTING, where the conveyor takes
no such event (R115). -/
def Part.onSlipLow (p : Part) (on : Bool) : Part :=
  let p : Part := { p with conv := { p.conv with slipLow := on } }
  p.latchIf (on && p.ctl.mode != .starting) .slipLow

/-- SLIP_LOW. -/
def execSlipLow (on : Bool) (s : State) : Host.Outcome State Fault Refusal :=
  .next (s.act fun p =>
    ({ p with lines := { p.lines with slipLow := on } } : Part).unlessHalted fun p => p.onSlipLow on)

/-- R104: SLIP_OUT changes the slip out level alone. -/
def Part.onSlipOut (p : Part) (on : Bool) : Part := { p with conv := { p.conv with slipOut := on } }

/-- SLIP_OUT. -/
def execSlipOut (on : Bool) (s : State) : Host.Outcome State Fault Refusal :=
  .next (s.act fun p =>
    ({ p with lines := { p.lines with slipOut := on } } : Part).unlessHalted fun p => p.onSlipOut on)

/-! ## ARRIVAL and the carry deadline -/

/-- The place exists (00 section 5.1). -/
def placeOk : Place → Bool
  | .drawer d => drawerOk d
  | .overflow => true

/-- The number of a place's drawer. -/
def placeNumber : Place → Nat
  | .drawer d => d
  | .overflow => 0

/-- R107: ARRIVAL. -/
def execArrival (place : Place) (s : State) : Host.Outcome State Fault Refusal :=
  if placeOk place then .next (s.act fun p => p.unlessHalted fun p => (p.arrive place).examineIdle)
  else .fault (.noSuchDrawer (placeNumber place))

/-- R108, R114: the carry deadline expires. -/
def Part.onCarryDeadline (p : Part) : Part :=
  match p.conv.state, p.conv.trip with
  | .carrying, some t =>
    match t.deadline with
    | some d => ((p.reach d).carryExpired t).examineIdle
    | none => p
  | _, _ => p

/-- CARRY_DEADLINE. -/
def execCarryDeadline (s : State) : Host.Outcome State Fault Refusal :=
  .next (s.act fun p => p.unlessHalted Part.onCarryDeadline)

/-! ## OVERFLOW_EMPTIED -/

/-- R110: the cleared tray record. -/
def Tray.cleared : Tray := { sets := 0, stack := 0, heldFull := false, groups := [] }

/-- R110: the header of a trip in flight when the tray is emptied. -/
def Header.afterEmptied : Header → Header
  | .joins | .marked | .unmarked => .unmarked
  | .pending => .pending

/-- R111: a held entry that the cleared tray accepts is held no longer. -/
def Part.retest (p : Part) (e : EjectEntry) : EjectEntry :=
  if e.placeable = some false ∧ trayAccepts p.conv.tray (p.destOf e.bin) (p.bin e.bin).set.stack then
    { e with placeable := some true }
  else e

/-- R110, R111: OVERFLOW_EMPTIED. -/
def Part.onOverflowEmptied (p : Part) : Part :=
  let p : Part := { p with conv := { p.conv with
    tray := Tray.cleared
    trip := p.conv.trip.map fun t => { t with header := t.header.map Header.afterEmptied } } }
  let p : Part := { p with conv := { p.conv with queue := p.conv.queue.map p.retest } }
  p.choiceCheck.examineIdle

/-- The overflow tray occupancy sensor goes empty. -/
def Part.clearOverflowLine (p : Part) : Part :=
  { p with lines := { p.lines with occ := { p.lines.occ with overflow := false } } }

/-- OVERFLOW_EMPTIED. -/
def execOverflowEmptied (s : State) : Host.Outcome State Fault Refusal :=
  .next (s.act fun p => p.clearOverflowLine.unlessHalted Part.onOverflowEmptied)

/-! ## COLLECTED -/

/-- R125: COLLECTED(d); the conveyor is told that a drawer record has changed. -/
def Part.onCollected (p : Part) (d : Nat) : Part := (p.drawerAct (p.drawers.collect d)).choiceCheck.examineIdle

/-- COLLECTED(d). -/
def execCollected (d : Nat) (s : State) : Host.Outcome State Fault Refusal :=
  if drawerOk d then
    .next (s.act fun p => ({ p with lines := p.lines.clearDrawer d } : Part).unlessHalted fun p => p.onCollected d)
  else .fault (.noSuchDrawer d)

end Sys2Proof.Machine
end

