-- ==== Sys2Proof/Machine/ModeEvents.lean ====
section
/-! DEFINITION. The events of the mode controller (R132 to R144): TRANSPORT_READY, WAKING_DEADLINE, IDLE_TIMER_EXPIRY,
DOOR_OPENED, DOOR_CLOSED, KEY_ON, KEY_OFF, POWER_ON. -/

namespace Sys2Proof.Machine

/-! ## Waking and idling -/

/-- R142: TRANSPORT_READY. -/
def Part.onTransportReady (p : Part) : Part :=
  if p.ctl.mode = .waking then
    let p : Part := { p with ctl := { p.ctl with wakingDeadline := none } }
    (p.changeMode .automatic .transportReady none).takeCheck.choiceCheck.examineIdle
  else p

/-- TRANSPORT_READY. -/
def execTransportReady (s : State) : Host.Outcome State Fault Refusal := .next (s.act Part.onTransportReady)

/-- R142: the waking deadline expires. -/
def Part.onWakingDeadline (p : Part) : Part :=
  match p.ctl.mode, p.ctl.wakingDeadline with
  | .waking, some t => (p.reach t).raiseFault .transportSlow .none none
  | _, _ => p

/-- WAKING_DEADLINE. -/
def execWakingDeadline (s : State) : Host.Outcome State Fault Refusal := .next (s.act Part.onWakingDeadline)

/-- R141: the idle timer expires. -/
def Part.onIdleTimerExpiry (p : Part) : Part :=
  match p.ctl.mode, p.ctl.idleTimer with
  | .automatic, some t => (p.reach t).park .idleTime
  | _, _ => p

/-- IDLE_TIMER_EXPIRY. -/
def execIdleTimerExpiry (s : State) : Host.Outcome State Fault Refusal := .next (s.act Part.onIdleTimerExpiry)

/-! ## Door and key (R137, R138) -/

/-- R138: a DOOR_OPENED makes an owed door cycle opened. -/
def DoorCycle.opening : DoorCycle → DoorCycle
  | .owed => .opened
  | .none => .none
  | .opened => .opened

/-- R138: a DOOR_CLOSED ends an opened door cycle. -/
def DoorCycle.closing : DoorCycle → DoorCycle
  | .opened => .none
  | .none => .none
  | .owed => .owed

/-- R137: DOOR_OPENED. -/
def Part.onDoorOpened (p : Part) : Part :=
  ({ p with ctl := { p.ctl with doorOpen := true, doorCycle := p.ctl.doorCycle.opening } } : Part).intrude .door

/-- DOOR_OPENED. -/
def execDoorOpened (s : State) : Host.Outcome State Fault Refusal :=
  .next (s.act fun p => ({ p with lines := { p.lines with doorOpen := true } } : Part).unlessHalted Part.onDoorOpened)

/-- R137: DOOR_CLOSED. -/
def Part.onDoorClosed (p : Part) : Part :=
  { p with ctl := { p.ctl with doorOpen := false, doorCycle := p.ctl.doorCycle.closing } }

/-- DOOR_CLOSED. -/
def execDoorClosed (s : State) : Host.Outcome State Fault Refusal :=
  .next (s.act fun p => ({ p with lines := { p.lines with doorOpen := false } } : Part).unlessHalted Part.onDoorClosed)

/-- R137: KEY_ON. -/
def Part.onKeyOn (p : Part) : Part := ({ p with ctl := { p.ctl with keyOn := true } } : Part).intrude .key

/-- KEY_ON. -/
def execKeyOn (s : State) : Host.Outcome State Fault Refusal :=
  .next (s.act fun p => ({ p with lines := { p.lines with keyOn := true } } : Part).unlessHalted Part.onKeyOn)

/-- R137: KEY_OFF. -/
def Part.onKeyOff (p : Part) : Part := { p with ctl := { p.ctl with keyOn := false } }

/-- KEY_OFF. -/
def execKeyOff (s : State) : Host.Outcome State Fault Refusal :=
  .next (s.act fun p => ({ p with lines := { p.lines with keyOn := false } } : Part).unlessHalted Part.onKeyOff)

/-! ## POWER_ON -/

/-- R134, R144, R159: power-on with the sensor lines as they then stand. The transmitter starts free (notes/assumptions/24.md). -/
def execPowerOn (lines : Lines) (s : State) : Host.Outcome State Fault Refusal :=
  .next (({ s with link := { s.link with sending := none, answer := none } } : State).act fun p =>
    ({ p with lines := lines } : Part).startUp .powerOn)

end Sys2Proof.Machine
end

