-- ==== Sys2Proof/Machine/LinkEvents.lean ====
section
/-! DEFINITION. The commands of the press link: FRAME_RECEIVED, FRAME_TIMEOUT, FRAME_SENT, UNKNOWN_KIND and the 19 requests. -/

namespace Sys2Proof.Machine

/-- R154, R155: bytes arrive on the receive line; what they complete is taken where it may be. -/
def execFrameReceived (bytes : List Byte) (occ : Occupancy) (s : State) : Host.Outcome State Fault Refusal :=
  .next (bytes.foldl State.receive (s.sample occ))

/-- R154: 50 ms have passed since the last byte of a frame that is not complete. -/
def execFrameTimeout (s : State) : Host.Outcome State Fault Refusal :=
  .next (if s.link.rx = .idle then s else s.discard)

/-- R158: the transmitter finishes a frame. -/
def execFrameSent (occ : Occupancy) (s : State) : Host.Outcome State Fault Refusal := .next (s.sample occ).frameEnds

/-- R156: a whole frame arrives that is no request. -/
def execUnknownKind (body : List Byte) (s : State) : Host.Outcome State Fault Refusal := .next (s.frameArrives body)

/-- IDENTIFY arrives (R160). -/
def execIdentify (tag : Byte) (f : List Byte) (s : State) : Host.Outcome State Fault Refusal :=
  .next (s.requestArrives .identify tag f)

/-- STATE_QUERY arrives (R161). -/
def execStateQuery (tag : Byte) (f : List Byte) (s : State) : Host.Outcome State Fault Refusal :=
  .next (s.requestArrives .stateQuery tag f)

/-- OPTION_SET arrives (R162). -/
def execOptionSet (tag : Byte) (f : List Byte) (s : State) : Host.Outcome State Fault Refusal :=
  .next (s.requestArrives .optionSet tag f)

/-- JOB_OPEN arrives (R5). -/
def execJobOpen (tag : Byte) (f : List Byte) (s : State) : Host.Outcome State Fault Refusal :=
  .next (s.requestArrives .jobOpen tag f)

/-- JOB_CLOSE arrives (R9). -/
def execJobClose (tag : Byte) (f : List Byte) (s : State) : Host.Outcome State Fault Refusal :=
  .next (s.requestArrives .jobClose tag f)

/-- JOB_HOLD arrives (R12). -/
def execJobHold (tag : Byte) (f : List Byte) (s : State) : Host.Outcome State Fault Refusal :=
  .next (s.requestArrives .jobHold tag f)

/-- JOB_RELEASE arrives (R14). -/
def execJobRelease (tag : Byte) (f : List Byte) (s : State) : Host.Outcome State Fault Refusal :=
  .next (s.requestArrives .jobRelease tag f)

/-- JOB_CANCEL arrives (R15, R16). -/
def execJobCancel (tag : Byte) (f : List Byte) (s : State) : Host.Outcome State Fault Refusal :=
  .next (s.requestArrives .jobCancel tag f)

/-- RUN_POST arrives (R23). -/
def execRunPost (tag : Byte) (f : List Byte) (s : State) : Host.Outcome State Fault Refusal :=
  .next (s.requestArrives .runPost tag f)

/-- RUN_WITHDRAW arrives (R32, R33). -/
def execRunWithdraw (tag : Byte) (f : List Byte) (s : State) : Host.Outcome State Fault Refusal :=
  .next (s.requestArrives .runWithdraw tag f)

/-- STOCK_SET arrives (R75). -/
def execStockSet (tag : Byte) (f : List Byte) (s : State) : Host.Outcome State Fault Refusal :=
  .next (s.requestArrives .stockSet tag f)

/-- WIRE_LOAD arrives (R95). -/
def execWireLoad (tag : Byte) (f : List Byte) (s : State) : Host.Outcome State Fault Refusal :=
  .next (s.requestArrives .wireLoad tag f)

/-- DRAWER_LOCK arrives (R126, R127). -/
def execDrawerLock (tag : Byte) (f : List Byte) (s : State) : Host.Outcome State Fault Refusal :=
  .next (s.requestArrives .drawerLock tag f)

/-- DRAWER_UNLOCK arrives (R128). -/
def execDrawerUnlock (tag : Byte) (f : List Byte) (s : State) : Host.Outcome State Fault Refusal :=
  .next (s.requestArrives .drawerUnlock tag f)

/-- ATTN_CLEAR arrives (R152). -/
def execAttnClear (tag : Byte) (f : List Byte) (s : State) : Host.Outcome State Fault Refusal :=
  .next (s.requestArrives .attnClear tag f)

/-- FAULT_CLEAR arrives (R150). -/
def execFaultClear (tag : Byte) (f : List Byte) (s : State) : Host.Outcome State Fault Refusal :=
  .next (s.requestArrives .faultClear tag f)

/-- RESUME arrives (R139); the audit and the conveyor check read the occupancy sensors. -/
def execResume (tag : Byte) (f : List Byte) (occ : Occupancy) (s : State) : Host.Outcome State Fault Refusal :=
  .next ((s.sample occ).requestArrives .resume tag f)

/-- PARK arrives (R140). -/
def execPark (tag : Byte) (f : List Byte) (s : State) : Host.Outcome State Fault Refusal :=
  .next (s.requestArrives .park tag f)

/-- RESTART arrives (R144). -/
def execRestart (tag : Byte) (f : List Byte) (s : State) : Host.Outcome State Fault Refusal :=
  .next (s.requestArrives .restart tag f)

end Sys2Proof.Machine
end

