-- ==== Sys2Proof/Machine/Dispatch.lean ====
section
/-! DEFINITION. The commands to their meanings: one arm for each row of spec/opcode_table.json. -/

namespace Sys2Proof.Machine

/-- The effect of a command on everything but the queue of waiting commands. -/
def exec (i : Instr) (s : State) : Host.Outcome State Fault Refusal :=
  match i with
  | .powerOn lines => Sys2Proof.Machine.execPowerOn lines s
  | .frameReceived bytes occ => Sys2Proof.Machine.execFrameReceived bytes occ s
  | .frameTimeout => Sys2Proof.Machine.execFrameTimeout s
  | .frameSent occ => Sys2Proof.Machine.execFrameSent occ s
  | .unknownKind body => Sys2Proof.Machine.execUnknownKind body s
  | .identify tag f => Sys2Proof.Machine.execIdentify tag f s
  | .stateQuery tag f => Sys2Proof.Machine.execStateQuery tag f s
  | .optionSet tag f => Sys2Proof.Machine.execOptionSet tag f s
  | .jobOpen tag f => Sys2Proof.Machine.execJobOpen tag f s
  | .jobClose tag f => Sys2Proof.Machine.execJobClose tag f s
  | .jobHold tag f => Sys2Proof.Machine.execJobHold tag f s
  | .jobRelease tag f => Sys2Proof.Machine.execJobRelease tag f s
  | .jobCancel tag f => Sys2Proof.Machine.execJobCancel tag f s
  | .runPost tag f => Sys2Proof.Machine.execRunPost tag f s
  | .runWithdraw tag f => Sys2Proof.Machine.execRunWithdraw tag f s
  | .stockSet tag f => Sys2Proof.Machine.execStockSet tag f s
  | .wireLoad tag f => Sys2Proof.Machine.execWireLoad tag f s
  | .drawerLock tag f => Sys2Proof.Machine.execDrawerLock tag f s
  | .drawerUnlock tag f => Sys2Proof.Machine.execDrawerUnlock tag f s
  | .attnClear tag f => Sys2Proof.Machine.execAttnClear tag f s
  | .faultClear tag f => Sys2Proof.Machine.execFaultClear tag f s
  | .resume tag f occ => Sys2Proof.Machine.execResume tag f occ s
  | .park tag f => Sys2Proof.Machine.execPark tag f s
  | .restart tag f => Sys2Proof.Machine.execRestart tag f s
  | .entry => Sys2Proof.Machine.execEntry s
  | .deposit b => Sys2Proof.Machine.execDeposit b s
  | .purgeArrival => Sys2Proof.Machine.execPurgeArrival s
  | .purgeFullOn => Sys2Proof.Machine.execPurgeFullOn s
  | .purgeFullOff => Sys2Proof.Machine.execPurgeFullOff s
  | .ticketDeadline => Sys2Proof.Machine.execTicketDeadline s
  | .binEmptied b => Sys2Proof.Machine.execBinEmptied b s
  | .carriageAt b occ => Sys2Proof.Machine.execCarriageAt b occ s
  | .travelDeadline occ => Sys2Proof.Machine.execTravelDeadline occ s
  | .stitchDone => Sys2Proof.Machine.execStitchDone s
  | .stitchCycleDeadline => Sys2Proof.Machine.execStitchCycleDeadline s
  | .carriageHome occ => Sys2Proof.Machine.execCarriageHome occ s
  | .homingDeadline occ => Sys2Proof.Machine.execHomingDeadline occ s
  | .slipFed => Sys2Proof.Machine.execSlipFed s
  | .slipFeedDeadline => Sys2Proof.Machine.execSlipFeedDeadline s
  | .slipLow on => Sys2Proof.Machine.execSlipLow on s
  | .slipOut on => Sys2Proof.Machine.execSlipOut on s
  | .arrival place => Sys2Proof.Machine.execArrival place s
  | .carryDeadline => Sys2Proof.Machine.execCarryDeadline s
  | .overflowEmptied => Sys2Proof.Machine.execOverflowEmptied s
  | .collected d => Sys2Proof.Machine.execCollected d s
  | .transportReady => Sys2Proof.Machine.execTransportReady s
  | .wakingDeadline => Sys2Proof.Machine.execWakingDeadline s
  | .idleTimerExpiry => Sys2Proof.Machine.execIdleTimerExpiry s
  | .doorOpened => Sys2Proof.Machine.execDoorOpened s
  | .doorClosed => Sys2Proof.Machine.execDoorClosed s
  | .keyOn => Sys2Proof.Machine.execKeyOn s
  | .keyOff => Sys2Proof.Machine.execKeyOff s

end Sys2Proof.Machine
end

