-- ==== Sys2Proof/Machine/Outputs.lean ====
section
/-! DEFINITION. The output lines to the mechanism as functions of the state (00 section 6). The gate select is the field
`path.gate`. In HALTED every drive is at rest, because the carriage and the conveyor stand STOPPED or IDLE there (R99, R115). -/

namespace Sys2Proof.Machine

/-- R132: the transport runs in AUTOMATIC and in WAKING. -/
def Part.transportRun (p : Part) : Bool := p.ctl.mode == .automatic || p.ctl.mode == .waking

/-- R87: the travel drive, toward its target, in TRAVELLING and in HOMING. -/
def Part.travelDrive (p : Part) : Option DriveTarget :=
  match p.carriage.state with
  | .travelling | .homing => p.carriage.target
  | .idle | .stitching | .stopped => none

/-- R87, R91: the stitch head drive, with h and the clinch class, during a stitch cycle. -/
def Part.headDrive (p : Part) : Option (Nat × Nat) :=
  match p.carriage.state, p.carriage.held with
  | .stitching, some h => some ((p.bin h.bin).set.planned.h, (p.bin h.bin).set.planned.clinch)
  | _, _ => none

/-- R105, R106, R114: the ejector that runs: that of the trip's bin, from its start to BIN_EMPTIED. -/
def Part.ejector (p : Part) : Option Nat :=
  match p.conv.state, p.conv.trip with
  | .carrying, some t => if t.emptied then none else some t.bin
  | _, _ => none

/-- R105: the belt, toward the trip's place, in CARRYING. -/
def Part.belt (p : Part) : Option Place :=
  match p.conv.state, p.conv.trip with
  | .carrying, some t => some t.place
  | _, _ => none

/-- R104: the kinds of slip. -/
inductive SlipKind where
  | header | void
  deriving DecidableEq, Repr

/-- R104: the slip feed, with the slip kind, while the feeder feeds. -/
def Part.slipFeed (p : Part) : Option SlipKind :=
  match p.conv.feeder, p.conv.trip with
  | .feeding, some t => some (if t.dest = none then .void else .header)
  | _, _ => none

/-- R118: the label display of drawer `d`. -/
def Part.labelOf (p : Part) (d : Nat) : Label := (p.drawers.drawer d).label

end Sys2Proof.Machine
end

