-- ==== Sys2Proof/Machine/Step.lean ====
section
/-! DEFINITION. One step: the command at the front of the queue, or a millisecond of the clock. -/

namespace Sys2Proof.Machine

/-- An empty queue: the block idles for one millisecond of the clock of its deadlines (notes/assumptions/3.md). -/
def State.tick (s : State) : State := { s with part := { s.part with now := s.part.now + 1 } }

/-- The machine takes the command at the front of its queue and makes its effect on the rest. -/
def step (s : State) : Host.Outcome State Fault Refusal :=
  match s.pending with
  | [] => .next s.tick
  | c :: rest => exec c { s with pending := rest }

/-- The command that a table word spells put at the front of the queue; no row of the table gives bits, so no word spells
one. -/
def State.withFetchWord (s : State) (nbits w : Nat) : State :=
  match decodeTableWord nbits w with
  | some c => { s with pending := c :: s.pending }
  | none => s

end Sys2Proof.Machine
end

