-- ==== Sys2Proof/Safety.lean ====
section
/-! DEFINITION. What the statements speak of: a settled part, a free or a busy press link, queued notices, and the invariants
that hold in every state a run reaches. -/

namespace Sys2Proof.Machine

/-! ## The press link between commands -/

/-- No act is in progress: nothing waits to be handed to the press link (notes/assumptions/6.md). -/
def Part.Settled (p : Part) : Prop := p.out = { reset := false, notices := [] }

/-- Between commands, with a press link that has nothing to do: no frame waits to be taken, no answer waits, nothing is being
sent. -/
structure Free (s : State) : Prop where
  settled : s.part.Settled
  answer  : s.link.answer = none
  sending : s.link.sending = none
  buffer  : s.link.buffer = []

/-- Between commands, with a frame in transmission and room for `k` more notices in the outbox (R158). -/
structure Busy (k : Nat) (s : State) : Prop where
  settled : s.part.Settled
  sending : s.link.sending.isSome = true
  room    : s.link.outbox.length + k ≤ 32

/-- Notices numbered from a sequence number on (R158). -/
def numbered (seq : Byte) : List Notice → List Numbered
  | [] => []
  | n :: ns => { seq := seq, notice := n } :: numbered (seq + 1) ns

/-- The notices have been queued, in order. -/
def State.queued (s : State) (ns : List Notice) : State :=
  { s with link := { s.link with
      outbox := s.link.outbox ++ numbered s.link.seq ns
      seq := s.link.seq + BitVec.ofNat 8 ns.length } }

/-- The answer to a request is being sent. -/
def State.answered (s : State) (r : RequestKind) (tag : Byte) (res : Result) (f : ReplyFields) : State :=
  { s with link := { s.link with
      sending := some (.answer { kind := requestCode r, tag := tag, result := res, fields := f }) } }

/-- The occupancy sensors sampled. -/
def State.withOccupancy (s : State) (occ : Occupancy) : State :=
  { s with part := { s.part with lines := { s.part.lines with occ := occ } } }

/-- A request command as its sender sees it: RESUME alone carries the occupancy sensors as they stand. -/
def State.sensed (s : State) (r : RequestKind) (occ : Occupancy) : State :=
  if r = .resume then s.withOccupancy occ else s

/-- R151: a condition latched at the press link: nothing where its flag is set; else the flag, and an ATTN_RAISED where its mask
bit is on. -/
def State.latched (s : State) (c : Condition) : State :=
  if hasCondition s.part.faults.attention c then s
  else
    let set := s.part.faults.attention ||| (1#8 <<< conditionBit c)
    let t : State := { s with part := { s.part with faults := { s.part.faults with attention := set } } }
    if hasCondition s.part.faults.reportMask c then t.queued [.attnRaised c set] else t

/-- The fault block of a part after an act that records no fault: the attention set may have gained flags, and a notice may be
owed (R151, R153). -/
def FaultBlock.sameRecord (f g : FaultBlock) : FaultBlock := { f with attention := g.attention, owed := g.owed }

/-! ## The mechanism between commands -/

/-- R140: the idle condition, its eight terms. -/
structure Part.IdleCond (p : Part) : Prop where
  current   : p.runs.current = none
  pending   : p.runs.pending = none
  finishing : p.runs.finishing = []
  tickets   : p.path.tickets = []
  stitches  : p.carriage.queue = []
  ejects    : p.conv.queue = []
  carriage  : p.carriage.state = .idle
  conveyor  : p.conv.state = .idle

/-- In AUTOMATIC the carriage and the conveyor are both at work, so that no check starts either (R88, R102) and the idle
condition does not hold (R140). -/
def Part.AtWork (p : Part) : Prop :=
  p.ctl.mode = .automatic → p.carriage.state ≠ .idle ∧ p.conv.state ≠ .idle

/-- R141: the idle timer of a part whose idle condition does not hold. -/
def Part.unidled (p : Part) : Part :=
  if p.ctl.mode = .automatic then { p with ctl := { p.ctl with idleTimer := none } } else p

/-- The modes that accept the requests on jobs, drawers and stocks (R145). -/
def Mode.Serving (m : Mode) : Prop := m ≠ .starting ∧ m ≠ .halted

/-! ## Entering SERVICE, a start, a halt -/

/-- R136, R54, R97, R113: the mode controller, the sort path, the carriage and the conveyor after an entry to SERVICE. `a` is the
sheet account before the tickets are lost. -/
structure EntersService (s t : State) (a : Account) : Prop where
  mode      : t.part.ctl.mode = .service
  timers    : t.part.ctl.parkPending = false ∧ t.part.ctl.idleTimer = none ∧ t.part.ctl.wakingDeadline = none
  tickets   : t.part.path.tickets = [] ∧ t.part.path.unticketed = 0 ∧ t.part.path.stopped = false
  gate      : t.part.path.gate = .released
  account   : t.part.path.account =
    { a with inFlight := a.inFlight - BitVec.ofNat 32 s.part.path.tickets.length
             lost := a.lost + BitVec.ofNat 32 s.part.path.tickets.length }
  travel    : s.part.carriage.state = .travelling → t.part.carriage =
    { s.part.carriage with
      queue := t.part.carriage.queue, state := .stopped, position := .unknown, target := none, deadline := none
      held := s.part.carriage.held.map fun h => { h with cond := .interrupted } }
  still     : s.part.carriage.state ≠ .travelling → t.part.carriage = { s.part.carriage with queue := t.part.carriage.queue }
  slip      : s.part.conv.state = .slip → t.part.conv =
    { s.part.conv with
      queue := t.part.conv.queue, state := .stopped, feeder := .idle
      trip := s.part.conv.trip.map fun r => { r with header := some .pending, deadline := none } }
  carry     : s.part.conv.state = .carrying → t.part.conv =
    { s.part.conv with
      queue := t.part.conv.queue, state := .stopped, trip := s.part.conv.trip.map fun r => { r with deadline := none } }
  rest      : s.part.conv.state = .idle ∨ s.part.conv.state = .stopped →
    t.part.conv = { s.part.conv with queue := t.part.conv.queue }
  drawers   : t.part.drawers = s.part.drawers
  stock     : t.part.stock = s.part.stock

/-- The press link can take the notices of an entry to SERVICE, no sheet is in flight to a VOID bin, and no run that settles
belongs to a job that its departure moves on (R10, R17). -/
structure LosesPlainly (s : State) : Prop where
  sending : s.link.sending.isSome = true
  room    : s.link.outbox.length + s.part.runs.finishing.length + 3 ≤ 32
  bins    : ∀ x ∈ s.part.path.tickets, ∀ b, x.target = .bin b → (s.part.bin b).set.void = false
  jobs    : ∀ r ∈ s.part.runs.finishing, ∀ j, s.part.job? r.job = some j → j.state ≠ .closing ∧ j.state ≠ .cancelling

/-- R28, R54: a run's record after the tickets `ts` are lost: the copies of its own among them join its lost list. -/
def Run.losing (r : Run) (ts : List Ticket) : Run :=
  { r with lost := r.lost ++ ts.filterMap fun x => (x.ref.filter fun f => f.run = r.id).map RunRef.copy }

/-- R54, R55, R28 to R30, R36, R64: what the loss of the tickets on an entry to SERVICE leaves, `u` sheets being unticketed: the
runs' lost lists, the bins' reservations, every settling run done, and the notices: `first`, then PATH_LOSS where a sheet was
lost, then each RUN_DONE. -/
structure LosesTickets (s t : State) (u : Nat) (first : List Notice) : Prop where
  jobs    : t.part.jobs = s.part.jobs
  runs    : t.part.runs = { s.part.runs with
    current := s.part.runs.current.map fun r => r.losing s.part.path.tickets, finishing := [] }
  bins    : ∀ b, t.part.bin b =
    let mine := s.part.path.tickets.filter fun x => x.target = .bin b
    { s.part.bin b with set := { (s.part.bin b).set with
        inboundSheets := (s.part.bin b).set.inboundSheets - mine.length
        inboundMicrons := (s.part.bin b).set.inboundMicrons - (mine.map Ticket.caliper).sum } }
  queues  : t.part.carriage.queue = s.part.carriage.queue ∧ t.part.conv.queue = s.part.conv.queue
  notices : t.link = (s.queued (first ++
    (if s.part.path.tickets = [] ∧ u = 0 then []
     else
      [.pathLoss (s.part.path.tickets.filterMap fun x => x.ref.map fun f => (f, x.target))
        (s.part.path.tickets.countP fun x => x.ref.isNone) u s.part.ctl.mode]) ++
    s.part.runs.finishing.map fun r =>
      .runDone r.id r.job r.page r.selected.length r.deposited r.purged (r.losing s.part.path.tickets).lost r.unprinted)).link

/-- R147: a recoverable fault in the record: the first fault where there was none, a later fault otherwise. -/
structure RecordsFault (s t : State) (e : FaultEntry) : Prop where
  first       : s.part.faults.first = none → t.part.faults.first = some e ∧ t.part.faults.later = s.part.faults.later
  later       : s.part.faults.first.isSome = true →
    t.part.faults.first = s.part.faults.first ∧ t.part.faults.later = min 255 (s.part.faults.later + 1)
  overwritten : t.part.faults.overwritten = s.part.faults.overwritten

/-- R130: the record of a drawer after the start-up restore, from its nonvolatile copy and its occupancy sensor. -/
structure Restored (c : NvCopy) (occupied : Bool) (r : Drawer) : Prop where
  awaited : r.awaited = false
  locked  : r.locked = c.locked
  pile    : r.pile = if occupied then none else some { count := 0, stack := 0 }
  kept    : c.locked = true ∨ occupied = true → r.dest = c.dest
  dropped : c.locked = false → occupied = false → r.dest = none ∧ r.state = .unassigned
  lock    : c.locked = true → r.state = if occupied then .full else .open
  found   : c.locked = false → occupied = true → r.state = if c.dest.isSome then .closing else .unassigned

/-- R134, R144, R159: what every start of STARTING leaves, whatever its kind, with the sensor lines `l` and the drawer map `m`
before it. -/
structure Starts (l : Lines) (m : DrawerMap) (t : State) : Prop where
  lines    : t.part.lines = l
  mode     : t.part.ctl.mode = .starting ∧ t.part.ctl.parkPending = false ∧ t.part.ctl.resumeFlag = false
  timers   : t.part.ctl.idleTimer = none ∧ t.part.ctl.wakingDeadline = none
  door     : t.part.ctl.doorCycle = .none ∧ t.part.ctl.doorOpen = l.doorOpen ∧ t.part.ctl.keyOn = l.keyOn
  jobs     : t.part.jobs = { jobs := [], queue := [] }
  runs     : t.part.runs = { current := none, pending := none, finishing := [], nextId := 0 }
  path     : t.part.path =
    { tickets := [], entryCount := 0, unticketed := 0, stopped := false, purgeCount := 0, account := {}
      gate := .released, purgeFull := l.purgeFull }
  bins     : ∀ b, 1 ≤ b ∧ b ≤ 48 → (t.part.bin b).state = if l.binOccupied b then .orphan else .free
  carriage : t.part.carriage =
    { queue := [], state := .homing, position := .unknown, held := none, target := some .home
      deadline := some (t.part.now + 6000), wire := t.part.carriage.wire }
  conv     : t.part.conv =
    { queue := [], state := .idle, trip := none, feeder := .idle, slipLow := l.slipLow, slipOut := l.slipOut
      tray := { sets := 0, stack := 0, heldFull := l.occ.overflow, groups := [] } }
  drawers  : ∀ d, 1 ≤ d ∧ d ≤ 20 → Restored (m.nvOf d) (l.drawerOccupied d) (t.part.drawers.drawer d) ∧
    t.part.drawers.nvOf d = { dest := (t.part.drawers.drawer d).dest, locked := (t.part.drawers.drawer d).locked }
  markers  : ∀ r < 8, t.part.drawers.marker r = .one
  tree     : t.part.drawers.tree = { upperPair := false, second17 := false, second19 := false }
  faults   : t.part.faults.attention = 0 ∧ t.part.faults.owed = none
  link     : t.link.rx = .idle ∧ t.link.buffer = [] ∧ t.link.noise = 0 ∧ t.link.overrun = 0 ∧ t.link.seq = 21

/-- R144: what a RESTART request and a self-restart keep. -/
structure Keeps (s t : State) : Prop where
  stock   : t.part.stock = s.part.stock
  wire    : t.part.carriage.wire = s.part.carriage.wire
  options : t.part.ctl.idleTime = s.part.ctl.idleTime ∧ t.part.faults.fatalAction = s.part.faults.fatalAction ∧
    t.part.faults.reportMask = s.part.faults.reportMask

/-- R143, R57, R99, R115: the part after a halt. -/
structure Halts (s t : State) : Prop where
  ctl      : t.part.ctl =
    { s.part.ctl with
      mode := .halted, parkPending := false, idleTimer := none, wakingDeadline := none, resumeFlag := false }
  path     : t.part.path = { s.part.path with gate := .released }
  carriage : t.part.carriage =
    { s.part.carriage with state := .stopped, position := .unknown, target := none, deadline := none }
  conv     : t.part.conv =
    { s.part.conv with
      state := if s.part.conv.trip.isSome then .stopped else .idle
      feeder := .idle
      trip := s.part.conv.trip.map fun r => { r with deadline := none } }
  kept     : t.part.jobs = s.part.jobs ∧ t.part.runs = s.part.runs ∧ t.part.bins = s.part.bins ∧ t.part.stock = s.part.stock ∧
    t.part.drawers = s.part.drawers

/-! ## Requests as the tables give them -/

/-- R145: the modes that accept each request, row by row. -/
def acceptingModes : RequestKind → List Mode
  | .identify | .stateQuery | .faultClear | .restart => [.starting, .automatic, .parked, .waking, .service, .halted]
  | .optionSet | .attnClear | .wireLoad => [.starting, .automatic, .parked, .waking, .service]
  | .jobOpen | .jobClose | .jobHold | .jobRelease | .jobCancel => [.automatic, .parked, .waking, .service]
  | .runWithdraw | .stockSet | .drawerLock | .drawerUnlock => [.automatic, .parked, .waking, .service]
  | .runPost | .park => [.automatic, .parked, .waking]
  | .resume => [.service]

/-- 11 section 11.5: the body length of each request, kind and tag counted, for the fields it carries. -/
def bodyLength (r : RequestKind) (f : List Byte) : Nat :=
  match r with
  | .identify | .faultClear | .resume | .park | .restart => 2
  | .stateQuery | .optionSet | .stockSet | .drawerLock => 5
  | .jobOpen => 11
  | .jobClose | .jobHold | .jobRelease | .jobCancel => 4
  | .runPost => 8 + byteAt f 5
  | .runWithdraw | .drawerUnlock => 3
  | .wireLoad => 6
  | .attnClear => 3 + byteAt f 0

/-- 11 section 11.5: JOB_OPEN bytes 9 to 12. -/
def priorityCode : Priority → Nat
  | .normal => 0
  | .urgent => 1

def patternCode : Pattern → Nat
  | .none => 0
  | .corner => 1
  | .edge2 => 2

def disorderCode : DisorderRule → Nat
  | .leave => 0
  | .stitch => 1

def wireRuleCode : WireRule → Nat
  | .wait => 0
  | .unstitched => 1

/-- R5: the values that JOB_OPEN sets in a record lie in their ranges. -/
structure Job.InRange (j : Job) : Prop where
  number : 1 ≤ j.number ∧ j.number ≤ 65535
  dest   : 1 ≤ j.dest ∧ j.dest ≤ 4095
  copies : 1 ≤ j.copies ∧ j.copies ≤ 48

/-- The fields of the JOB_OPEN that opens job `j`. -/
def Job.openFields (j : Job) : List Byte :=
  JobOpenFields.bytes
    { number := j.number, dest := j.dest, copies := j.copies, priority := priorityCode j.priority
      pattern := patternCode j.pattern, disorder := disorderCode j.disorder, wireRule := wireRuleCode j.wireRule }

/-- R5: the record as JOB_OPEN creates it. -/
structure Job.Fresh (j : Job) : Prop where
  range   : j.InRange
  state   : j.state = .waiting
  bins    : j.bins = []
  close   : j.closeRequested = false
  tallies : j.tallies = {}

/-- R6: the job of a number is URGENT. -/
def Part.urgent (p : Part) (n : Nat) : Prop := (p.job? n).map Job.priority = some .urgent

/-- R8: the bins that a grant of `n` copies takes: the block of `n` consecutive FREE bins whose lowest bin is lowest, and where
there is none, the `n` lowest FREE bins, in ascending order. -/
structure Part.GrantTakes (p : Part) (n : Nat) (bins : List Nat) : Prop where
  block : ∀ b, (∀ i, i < n → p.isFree (b + i) = true) → (∀ c, (∀ i, i < n → p.isFree (c + i) = true) → b ≤ c) →
    bins = List.range' b n
  scattered : (∀ b, ∃ i, i < n ∧ p.isFree (b + i) = false) →
    bins.length = n ∧ bins.Pairwise (· < ·) ∧ (∀ b ∈ bins, p.isFree b = true) ∧
      ∀ b ∈ bins, ∀ c, p.isFree c = true → c < b → c ∈ bins

/-- 11 section 11.5, RUN_POST: the fields in themselves are in range (R23 check 3). -/
structure RunPostFields.InRange (r : RunPostFields) : Prop where
  job    : 1 ≤ r.job ∧ r.job ≤ 65535
  page   : 1 ≤ r.page ∧ r.page ≤ 60
  stock  : r.stock ≤ 7
  count  : r.count = r.copies.length
  form   : (r.form = 0 ∧ r.count = 0) ∨ (r.form = 1 ∧ 1 ≤ r.count ∧ r.count ≤ 48)
  copies : ∀ k ∈ r.copies, 1 ≤ k ∧ k ≤ 48

/-- The occupancy sensors agree with the bin records: nothing is missing and nothing has been added (R70 to R72). -/
def Part.SensorsAgree (p : Part) (occ : Occupancy) : Prop :=
  ∀ b, 1 ≤ b ∧ b ≤ 48 →
    ((p.bin b).state ∈ [BinState.free, .assigned] → occ.bins.getLsbD (b - 1) = false) ∧
    ((p.bin b).state ∈ [BinState.filling, .stitchWait, .stitching, .ejectWait, .orphan] → occ.bins.getLsbD (b - 1) = true)

/-- The bins in one of `states` whose occupancy sensors read `occupied`, in ascending order. -/
def Part.sensedBins (p : Part) (occ : Occupancy) (states : List BinState) (occupied : Bool) : List Nat :=
  (List.range' 1 48).filter fun b => states.contains (p.bin b).state && occ.bins.getLsbD (b - 1) == occupied

/-- R71: the complete sets that the audit finds gone. -/
def Part.setsGone (p : Part) (occ : Occupancy) : List Nat :=
  p.sensedBins occ [.stitchWait, .stitching, .ejectWait] false

/-- R71: the ORPHAN bins that the audit finds empty. -/
def Part.orphansGone (p : Part) (occ : Occupancy) : List Nat := p.sensedBins occ [.orphan] false

/-- R65, R71: a job with one more empty set, a void one being counted voided no longer. -/
def Job.countGone (j : Job) (void : Bool) : Job :=
  { j with tallies := { j.tallies with
      empty := j.tallies.empty + 1, voided := if void then j.tallies.voided - 1 else j.tallies.voided } }

/-- R2, R71: the record of job `j` after the audit: the entries of its bins that were freed are released, and each of its sets
that is gone is counted. -/
def Job.afterAudit (j : Job) (p : Part) (occ : Occupancy) : Job :=
  let mine (b : Nat) : Bool := (p.bin b).set.job == some j.number
  let freed := (p.setsGone occ ++ p.orphansGone occ).filter mine
  ((p.setsGone occ).filter mine).foldl (fun i b => i.countGone (p.bin b).set.void)
    { j with bins := j.bins.map fun e => if e.bin ∈ freed then { e with released := true } else e }

/-- R2, R69: the entry of bin `b` released in the record of the job, if any, whose set the bin held. -/
def JobTable.released (t : JobTable) (n : Option Nat) (b : Nat) : JobTable :=
  { t with jobs := t.jobs.map fun j =>
      if n = some j.number then
        { j with bins := j.bins.map fun e => if e.bin = b then { e with released := true } else e }
      else j }

/-- R56, R70, R71: the sheets that the audit finds gone. -/
def Part.sheetsGone (p : Part) (occ : Occupancy) : Nat :=
  ((p.sensedBins occ [.filling, .stitchWait, .stitching, .ejectWait] false).map fun b => (p.bin b).set.pages.length).sum

/-- R70 to R72: what the audit of `p` with the sensors `occ` leaves in `t`, no job ending and no job waiting for bins: a FILLING
bin sensed empty loses its sheets, a complete set sensed empty and an empty ORPHAN bin are freed, paper in an ASSIGNED bin makes
its set FOREIGN, and paper in a FREE bin makes it an ORPHAN at the tail of the eject queue. -/
structure Audits (p t : Part) (occ : Occupancy) : Prop where
  emptied  : ∀ b ∈ p.sensedBins occ [.filling] false, t.bin b =
    { state := .assigned
      set := { (p.bin b).set with pages := [], stack := 0, disordered := false, emptied := true } }
  freed    : ∀ b, b ∈ p.setsGone occ ∨ b ∈ p.orphansGone occ → t.bin b = { state := .free, set := {} }
  foreign  : ∀ b ∈ p.sensedBins occ [.assigned] true, t.bin b = { p.bin b with set := { (p.bin b).set with foreign := true } }
  orphan   : ∀ b ∈ p.sensedBins occ [.free] true, t.bin b =
    { state := .orphan
      set := { void := true, plan := some { stitches := 0, h := 0, clinch := 0, wire := 0, reason := none } } }
  kept     : ∀ b, b ∉ p.sensedBins occ [.filling] false → b ∉ p.setsGone occ → b ∉ p.orphansGone occ →
    b ∉ p.sensedBins occ [.assigned] true → b ∉ p.sensedBins occ [.free] true → t.bin b = p.bin b
  jobs     : t.jobs = { p.jobs with jobs := p.jobs.jobs.map fun j => j.afterAudit p occ }
  path     : t.path = { p.path with account := { p.path.account with
    inBins := p.path.account.inBins - BitVec.ofNat 32 (p.sheetsGone occ)
    removed := p.path.account.removed + BitVec.ofNat 32 (p.sheetsGone occ) } }
  carriage : t.carriage = { p.carriage with
    queue := p.carriage.queue.filter fun b => b ∉ p.setsGone occ
    held := p.carriage.held.filter fun h => h.bin ∉ p.setsGone occ }
  conv     : t.conv = { p.conv with queue :=
    (p.conv.queue.filter fun e => e.bin ∉ p.setsGone occ ∧ e.bin ∉ p.orphansGone occ) ++
      (p.sensedBins occ [.free] true).map fun b => { bin := b, placeable := none } }

/-! ## Invariants -/

/-- R154: the receiver stands at a place a frame can have. -/
def Rx.Ok : Rx → Prop
  | .idle => True
  | .length => True
  | .body n got => 1 ≤ n ∧ n ≤ 250 ∧ got.length ≤ n

/-- R154, R155, R158: the bounds of the press link. -/
structure LinkOk (s : State) : Prop where
  settled : s.part.Settled
  rx      : s.link.rx.Ok
  buffer  : s.link.buffer.length ≤ 2
  bodies  : ∀ body ∈ s.link.buffer, 1 ≤ body.length ∧ body.length ≤ 250
  outbox  : s.link.outbox.length ≤ 32
  noise   : s.link.noise ≤ 65535
  overrun : s.link.overrun ≤ 65535

/-- R56: the sheet account balances. -/
def Account.Balanced (a : Account) : Prop :=
  a.entered = a.inFlight + a.inBins + a.inReturn + a.placed + a.purged + a.lost + a.removed

/-- R38, R56: the entry count is the entered count, and the account balances. -/
def SheetsAccounted (s : State) : Prop :=
  s.part.path.entryCount = s.part.path.account.entered ∧ s.part.path.account.Balanced

/-- R132, R139 to R142: the flag and the timers of the mode controller run in their modes alone. -/
structure ModeOk (s : State) : Prop where
  settled : s.part.Settled
  resume  : s.part.ctl.resumeFlag = true → s.part.ctl.mode = .service
  waking  : s.part.ctl.wakingDeadline.isSome = true ↔ s.part.ctl.mode = .waking
  idle    : s.part.ctl.idleTimer.isSome = true → s.part.ctl.mode = .automatic
  park    : s.part.ctl.parkPending = true → s.part.ctl.mode = .automatic ∨ s.part.ctl.mode = .waking

/-- R74, R87, R141, R147, R50: the stored values stay in their ranges. -/
structure RangesOk (s : State) : Prop where
  settled : s.part.Settled
  stock   : ∀ e ∈ s.part.stock.toList, e.defined = true → 50 ≤ e.caliper ∧ e.caliper ≤ 400
  wire    : s.part.carriage.wire ≤ 9999999
  idle    : s.part.ctl.idleTime = 0 ∨ (30 ≤ s.part.ctl.idleTime ∧ s.part.ctl.idleTime ≤ 3600)
  later   : s.part.faults.later ≤ 255
  purge   : s.part.path.purgeCount ≤ 65535

/-- R21: the PENDING slot is occupied only while the CURRENT slot is, and each run's state follows its place. -/
structure SlotsOk (s : State) : Prop where
  pending   : s.part.runs.pending.isSome = true → s.part.runs.current.isSome = true
  current   : ∀ r ∈ s.part.runs.current, r.state = .current ∨ r.state = .draining
  waiting   : ∀ r ∈ s.part.runs.pending, r.state = .pending
  finishing : ∀ r ∈ s.part.runs.finishing, r.state = .finishing

end Sys2Proof.Machine
end

