-- ==== Sys2Proof/Certificates/Slice0/Obligations.lean ====
section
/-! DEFINITION. The statements for the provers. In each, `Free` and `Busy` speak of the press link between commands, and a next
state is written out as the state before with the fields the rules change. -/

open Sys2Proof Sys2Proof.Machine

/-! ## The machine and its queue -/

/-- The machine takes the command at the front of its queue. -/
def Obligations.StepTakesTheFrontCommand : Prop :=
  ∀ (s : State) (c : Instr) (rest : List Instr), s.pending = c :: rest → step s = exec c { s with pending := rest }

/-! ## Requests: the checks of R156 -/

/-- R160, in every mode and on a free link. -/
def Obligations.IdentifyAnswersTheIdentity : Prop :=
  ∀ (s : State) (tag : Byte), Free s →
    exec (.identify tag []) s = .next (s.answered .identify tag .ok (.identity 0x4F50 4820 1 48 20))

/-- R145: WRONG_MODE where the table has no `yes`, whatever the length of the body, and nowhere else. -/
def Obligations.RequestsByMode : Prop :=
  ∀ (s : State) (r : RequestKind) (tag : Byte) (f : List Byte) (occ : Occupancy), Free s → f.length ≤ 248 →
    (s.part.ctl.mode ∉ acceptingModes r →
      exec (requestCommand r tag f occ) s = .next ((s.sensed r occ).answered r tag .wrongMode .empty)) ∧
    (s.part.ctl.mode ∈ acceptingModes r →
      ∃ t a, exec (requestCommand r tag f occ) s = .next t ∧ t.link.sending = some (.answer a) ∧ a.result ≠ .wrongMode)

/-- R156: an unknown kind is answered UNKNOWN_KIND in every mode, a frame of a single byte BAD_LENGTH with tag 0; past the mode, a
body whose length is not the kind's is answered BAD_LENGTH (11 section 11.5). -/
def Obligations.RequestFramesAreChecked : Prop :=
  ∀ (s : State) (r : RequestKind) (k tag : Byte) (f : List Byte) (occ : Occupancy), Free s → f.length ≤ 248 →
    (exec (.unknownKind [k]) s = .next { s with link := { s.link with
      sending := some (.answer { kind := k, tag := 0, result := .badLength, fields := .empty }) } }) ∧
    (k = 0 ∨ 0x13 < k.toNat →
      exec (.unknownKind (k :: tag :: f)) s = .next { s with link := { s.link with
        sending := some (.answer { kind := k, tag := tag, result := .unknownKind, fields := .empty }) } }) ∧
    (s.part.ctl.mode ∈ acceptingModes r →
      (f.length + 2 ≠ bodyLength r f ∨ (r = .runPost ∧ f.length < 6) ∨ (r = .attnClear ∧ f.length < 1)) →
      exec (requestCommand r tag f occ) s = .next ((s.sensed r occ).answered r tag .badLength .empty))

/-- R156, R157: a request answered with a refusal code changes no state and carries no field. -/
def Obligations.ARefusedRequestChangesNothing : Prop :=
  ∀ (s t : State) (r : RequestKind) (tag : Byte) (f : List Byte) (occ : Occupancy) (a : Answer), Free s → f.length ≤ 248 →
    exec (requestCommand r tag f occ) s = .next t → t.link.sending = some (.answer a) → 16 ≤ resultCode a.result →
    t = (s.sensed r occ).answered r tag a.result .empty

/-! ## Requests: queries and options -/

/-- R161: each subject's contents, and its refusals; nothing else changes. -/
def Obligations.StateQueryShowsTheRecords : Prop :=
  ∀ (s : State) (tag : Byte) (f : List Byte), Free s → f.length = 3 →
    let p := s.part
    let shows (c : Contents) : Prop := exec (.stateQuery tag f) s = .next (s.answered .stateQuery tag .ok (.contents c))
    let refuses (r : Result) : Prop := exec (.stateQuery tag f) s = .next (s.answered .stateQuery tag r .empty)
    let n := wordAt f 1
    (byteAt f 0 = 0 → shows (.part p.ctl p.stock.toList p.carriage.state p.carriage.position p.carriage.held p.carriage.wire
      (p.carriage.queue.map fun b =>
        { bin := b, job := (p.bin b).set.job, priority := p.priorityOf b, stitches := (p.bin b).set.planned.stitches
          made := (p.bin b).set.made, h := (p.bin b).set.planned.h
          need := (p.bin b).set.planned.wire - (p.bin b).set.made * (12 + (p.bin b).set.planned.h) }))) ∧
    (byteAt f 0 = 1 → (∀ j, p.job? n = some j → shows (.job j)) ∧ (p.job? n = none → refuses .noSuchJob)) ∧
    (byteAt f 0 = 2 →
      (1 ≤ n ∧ n ≤ 48 → (p.bin n).state = .free → shows (.bin .free none)) ∧
      (1 ≤ n ∧ n ≤ 48 → (p.bin n).state ≠ .free → shows (.bin (p.bin n).state (some (p.bin n).set))) ∧
      (n = 0 ∨ 48 < n → refuses .badField)) ∧
    (byteAt f 0 = 3 →
      (1 ≤ n ∧ n ≤ 16 → shows (.drawer (p.drawers.drawer n) (p.drawers.drawer n).label
        (.marker (p.drawers.marker ((n - 1) / 2))))) ∧
      (17 ≤ n ∧ n ≤ 20 → shows (.drawer (p.drawers.drawer n) (p.drawers.drawer n).label (.tree p.drawers.tree))) ∧
      (n = 0 ∨ 20 < n → refuses .badField)) ∧
    (byteAt f 0 = 4 → shows (.overflow
      (p.conv.queue.map fun e =>
        { bin := e.bin, job := (p.bin e.bin).set.job, copy := (p.bin e.bin).set.copy, dest := p.destOf e.bin
          stack := (p.bin e.bin).set.stack, placeable := e.placeable })
      p.conv.state p.conv.trip p.conv.feeder p.conv.slipLow p.conv.slipOut p.conv.tray)) ∧
    (byteAt f 0 = 5 → shows (.runs p.runs.current p.runs.pending p.runs.finishing)) ∧
    (byteAt f 0 = 6 →
      shows (.fault p.faults.first p.faults.later p.faults.overwritten p.faults.fatalAction p.ctl.doorCycle)) ∧
    (byteAt f 0 = 7 → shows (.attention p.faults.attention p.faults.reportMask p.levels p.faults.owed.isSome)) ∧
    (byteAt f 0 = 8 →
      shows (.account p.path.account p.path.purgeCount p.path.unticketed p.path.stopped p.path.tickets)) ∧
    (byteAt f 0 = 9 → shows (.link 0 s.link.noise s.link.overrun s.link.outbox.length s.link.seq)) ∧
    (10 ≤ byteAt f 0 → refuses .badField)

/-- R162, R141: the options, what is stored and answered, and the idle timer started anew. -/
def Obligations.OptionSetStoresTheOption : Prop :=
  ∀ (s : State) (tag : Byte) (f : List Byte), Free s → s.part.ctl.mode ≠ .halted → f.length = 3 →
    let v := wordAt f 1
    let stored := if v = 0 then 0 else if v < 30 then 30 else if 3600 < v then 3600 else v
    let timer := if stored = 0 then none else some (s.part.now + 1000 * stored)
    let withCtl (c : ModeCtl) : State := { s with part := { s.part with ctl := c } }
    let withFaults (b : FaultBlock) : State := { s with part := { s.part with faults := b } }
    let res : Result := if stored = v then .ok else .okAdjusted
    (byteAt f 0 = 0 →
      (s.part.ctl.mode = .automatic → s.part.IdleCond →
        exec (.optionSet tag f) s =
          .next ((withCtl { s.part.ctl with idleTime := stored, idleTimer := timer }).answered .optionSet tag res
            (.option 0 stored))) ∧
      (s.part.ctl.mode ≠ .automatic ∨ ¬ s.part.IdleCond →
        exec (.optionSet tag f) s =
          .next ((withCtl { s.part.ctl with idleTime := stored }).answered .optionSet tag res (.option 0 stored)))) ∧
    (byteAt f 0 = 1 → v ≤ 1 →
      exec (.optionSet tag f) s =
        .next ((withFaults { s.part.faults with fatalAction := if v = 0 then .halt else .restart }).answered .optionSet tag .ok
          (.option 1 v))) ∧
    (byteAt f 0 = 2 → v ≤ 255 →
      exec (.optionSet tag f) s =
        .next ((withFaults { s.part.faults with reportMask := BitVec.ofNat 8 v }).answered .optionSet tag .ok (.option 2 v))) ∧
    ((byteAt f 0 = 1 ∧ 1 < v) ∨ (byteAt f 0 = 2 ∧ 255 < v) ∨ 2 < byteAt f 0 →
      exec (.optionSet tag f) s = .next (s.answered .optionSet tag .badField .empty))

/-! ## Requests: jobs -/

/-- R5, R6: an accepted JOB_OPEN whose job does not become the head stands in the queue at its class's place and waits. R7, R8:
one that becomes the head and finds enough FREE bins is granted in the same act: the job is ACTIVE, its bins are ASSIGNED with
empty set records, and JOB_READY follows the answer; here no job behind it is granted too. The bins are the lowest block of FREE
bins that holds the job's copies, and where there is none, the lowest FREE bins. -/
def Obligations.JobOpenWaitsOrIsGranted : Prop :=
  ∀ (s : State) (tag : Byte) (j : Job) (us ns : List Nat), Free s → s.part.ctl.mode.Serving → j.Fresh →
    s.part.job? j.number = none → s.part.jobs.jobs.length < 16 →
    s.part.jobs.queue = us ++ ns → (∀ m ∈ us, s.part.urgent m) → (∀ m ∈ ns, m ≠ j.number ∧ ¬ s.part.urgent m) →
    let waits (q : List Nat) : Prop :=
      exec (.jobOpen tag j.openFields) s =
        .next ({ s with part := { s.part with jobs := { jobs := s.part.jobs.jobs ++ [j], queue := q } } }.answered .jobOpen tag
          .ok .empty)
    (j.priority = .normal → us ++ ns ≠ [] → waits (us ++ ns ++ [j.number])) ∧
    (j.priority = .urgent → us ≠ [] → waits (us ++ j.number :: ns)) ∧
    let becomesHead : Prop := us = [] ∧ (ns = [] ∨ j.priority = .urgent)
    (becomesHead → s.part.freeBins.length < j.copies → waits (j.number :: ns)) ∧
    (becomesHead → s.link.outbox.length < 32 → j.copies ≤ s.part.freeBins.length →
      (∀ m g, ns.head? = some m → s.part.job? m = some g → s.part.freeBins.length < j.copies + g.copies) →
      ∃ (t : Part) (bins : List Nat), s.part.GrantTakes j.copies bins ∧
        exec (.jobOpen tag j.openFields) s =
          .next ((({ s with part := { s.part with jobs := t.jobs, bins := t.bins } } : State).answered .jobOpen tag .ok
            .empty).queued [.jobReady j.number j.copies bins]) ∧
        t.jobs =
          { jobs := s.part.jobs.jobs ++
              [{ j with state := .active, bins := bins.map fun b => { bin := b, released := false } }]
            queue := ns } ∧
        (∀ k b, bins[k]? = some b →
          t.bin b = { state := .assigned, set := { job := some j.number, copy := some (k + 1) } }) ∧
        (∀ b, b ∉ bins → t.bin b = s.part.bin b))

/-- R5: what JOB_OPEN refuses after its mode and length; R4 checks 3 and 4, for the four requests that name a job in the table. -/
def Obligations.JobRequestRefusals : Prop :=
  ∀ (s : State) (r : RequestKind) (tag : Byte) (f : List Byte) (occ : Occupancy), Free s → s.part.ctl.mode.Serving →
    let refuses (e : Result) : Prop := exec (requestCommand r tag f occ) s = .next (s.answered r tag e .empty)
    (r = .jobOpen → f.length = 9 →
      let bad := wordAt f 0 = 0 ∨ wordAt f 2 = 0 ∨ 4095 < wordAt f 2 ∨ byteAt f 4 = 0 ∨ 48 < byteAt f 4 ∨ 1 < byteAt f 5 ∨
        2 < byteAt f 6 ∨ 1 < byteAt f 7 ∨ 1 < byteAt f 8
      (bad → refuses .badField) ∧
      (¬ bad → (s.part.job? (wordAt f 0)).isSome = true → refuses .jobExists) ∧
      (¬ bad → s.part.job? (wordAt f 0) = none → 16 ≤ s.part.jobs.jobs.length → refuses .tableFull)) ∧
    (r ∈ [RequestKind.jobClose, .jobHold, .jobRelease, .jobCancel] → f.length = 2 →
      (wordAt f 0 = 0 → refuses .badField) ∧
      (wordAt f 0 ≠ 0 → s.part.job? (wordAt f 0) = none → refuses .noSuchJob))

/-- R9: a close with work in hand, or of a job already CLOSING, is deferred; WAITING, FINISHING and CANCELLING refuse it. -/
def Obligations.JobCloseWithWorkInHand : Prop :=
  ∀ (s : State) (tag : Byte) (f : List Byte) (j : Job), Free s → s.part.ctl.mode.Serving → f.length = 2 → wordAt f 0 ≠ 0 →
    s.part.job? (wordAt f 0) = some j →
    (j.state ∈ [JobState.active, .holding, .held] →
      (∃ r ∈ s.part.runs.current.toList ++ s.part.runs.pending.toList ++ s.part.runs.finishing, r.job = j.number) →
      exec (.jobClose tag f) s =
        .next ({ s with part := s.part.modJob j.number fun i => { i with closeRequested := true, state := .closing } }.answered
          .jobClose tag .okDeferred .empty)) ∧
    (j.state = .closing → exec (.jobClose tag f) s = .next (s.answered .jobClose tag .okDeferred .empty)) ∧
    (j.state ∈ [JobState.waiting, .finishing, .cancelling] →
      exec (.jobClose tag f) s = .next (s.answered .jobClose tag .jobState .empty))

/-- R9, R11, R65, R86: a close without work in hand, of a job that holds one bin with sheets, while no check starts the carriage or
the conveyor: the job is FINISHING and the bin has its plan and stands in the queue that the plan gives it, in the stitch queue
behind the last entry of its job's class. -/
def Obligations.JobCloseTakesEffect : Prop :=
  ∀ (s : State) (tag : Byte) (f : List Byte) (j : Job) (b : Nat), Free s → s.part.ctl.mode.Serving →
    s.part.ctl.mode ≠ .parked → s.part.AtWork → f.length = 2 → wordAt f 0 ≠ 0 →
    s.part.job? (wordAt f 0) = some j → j.state ∈ [JobState.active, .holding, .held] →
    (∀ r ∈ s.part.runs.current.toList ++ s.part.runs.pending.toList ++ s.part.runs.finishing, r.job ≠ j.number) →
    j.heldBins = [b] → (s.part.bin b).set.pages ≠ [] → hasCondition s.part.faults.attention .wireOut = true →
    let r := (s.part.bin b).set
    let plan := stitchPlan r.pages.length r.stack r.foreign r.disordered j.pattern j.disorder
    ∃ t : Part,
      exec (.jobClose tag f) s =
        .next (({ s with part := { s.part.unidled with jobs := t.jobs, bins := t.bins, carriage := t.carriage, conv := t.conv } }
          : State).answered .jobClose tag .ok .empty) ∧
      t.jobs = (s.part.modJob j.number fun i => { i with closeRequested := true, state := .finishing }).jobs ∧
      (∀ c, c ≠ b → t.bin c = s.part.bin c) ∧
      (t.bin b).set = { r with plan := some plan } ∧
      (plan.stitches = 0 → (t.bin b).state = .ejectWait ∧ t.carriage = s.part.carriage ∧
        t.conv = { s.part.conv with queue := s.part.conv.queue ++ [{ bin := b, placeable := none }] }) ∧
      (plan.stitches ≠ 0 → (t.bin b).state = .stitchWait ∧ t.conv = s.part.conv ∧
        t.carriage = { s.part.carriage with queue := t.carriage.queue } ∧ b ∈ t.carriage.queue ∧
        (∀ c, c ≠ b → (c ∈ t.carriage.queue ↔ c ∈ s.part.carriage.queue)) ∧
        ∀ us ns, r.job = some j.number → s.part.carriage.queue = us ++ ns → (∀ c ∈ us, s.part.priorityOf c = .urgent) →
          (∀ c ∈ ns, s.part.priorityOf c = .normal) →
          t.carriage.queue = if j.priority = .urgent then us ++ b :: ns else us ++ ns ++ [b])

/-- R12, R14: a hold by the job's state, which withdraws the PENDING run of an ACTIVE job and lets the CURRENT run go on; a
release by the job's state. -/
def Obligations.JobHoldAndReleaseByState : Prop :=
  ∀ (s : State) (tag : Byte) (f : List Byte) (j : Job), Free s → s.link.outbox.length < 32 → s.part.ctl.mode.Serving →
    f.length = 2 → wordAt f 0 ≠ 0 → s.part.job? (wordAt f 0) = some j →
    let out : Option Run := s.part.runs.pending.filter fun r => r.job = j.number
    let left (st : JobState) : Part :=
      { (s.part.modJob j.number fun i => { i with state := st }) with
        runs := { s.part.runs with pending := s.part.runs.pending.filter fun r => r.job ≠ j.number } }
    (j.state = .active → (∃ r ∈ s.part.runs.current, r.job = j.number) →
      exec (.jobHold tag f) s =
        .next ({ s with part := left .holding }.answered .jobHold tag .ok (.withdrawn (out.map Run.id)))) ∧
    (j.state = .active → (∀ r ∈ s.part.runs.current, r.job ≠ j.number) →
      exec (.jobHold tag f) s =
        .next (({ s with part := left .held }.answered .jobHold tag .ok (.withdrawn (out.map Run.id))).queued
          [.jobHeld j.number])) ∧
    (j.state = .holding ∨ j.state = .held →
      exec (.jobHold tag f) s = .next (s.answered .jobHold tag .ok (.withdrawn none))) ∧
    (j.state ∈ [JobState.waiting, .closing, .finishing, .cancelling] →
      exec (.jobHold tag f) s = .next (s.answered .jobHold tag .jobState .empty)) ∧
    (j.state = .holding ∨ j.state = .held →
      exec (.jobRelease tag f) s =
        .next ({ s with part := s.part.modJob j.number fun i => { i with state := .active } }.answered .jobRelease tag .ok
          .empty)) ∧
    (j.state = .active → exec (.jobRelease tag f) s = .next (s.answered .jobRelease tag .ok .empty)) ∧
    (j.state ∈ [JobState.waiting, .closing, .finishing, .cancelling] →
      exec (.jobRelease tag f) s = .next (s.answered .jobRelease tag .jobState .empty))

/-- R15: a WAITING job that is not the head leaves the queue and the table. R16, R67: any other job becomes CANCELLING, its
PENDING run is withdrawn, its CURRENT run drains, and its bins are voided by their states: an ASSIGNED bin without inbound sheets
is freed, one that waits for sheets is marked VOID, a FILLING bin without inbound sheets and a STITCH_WAIT bin go to EJECT_WAIT
with the void plan, and the sets under way already go on. R17: a job that then holds nothing ends at once. CANCELLING refuses. -/
def Obligations.JobCancelByState : Prop :=
  ∀ (s : State) (tag : Byte) (f : List Byte) (j : Job), Free s → s.part.ctl.mode.Serving → s.part.AtWork → f.length = 2 →
    wordAt f 0 ≠ 0 → s.part.job? (wordAt f 0) = some j →
    (j.state = .waiting → s.part.jobs.queue.head? ≠ some j.number →
      exec (.jobCancel tag f) s =
        .next ({ s with part := { s.part with jobs :=
          { jobs := s.part.jobs.jobs.filter fun i => i.number ≠ j.number
            queue := s.part.jobs.queue.filter fun m => m ≠ j.number } } }.answered .jobCancel tag .ok (.withdrawn none))) ∧
    (j.state ∈ [JobState.active, .holding, .held, .closing, .finishing] → (∃ e ∈ j.bins, e.released = false) →
      (∀ b ∈ j.heldBins, (s.part.bin b).state ∈ [BinState.stitching, .ejectWait, .ejecting]) →
      exec (.jobCancel tag f) s =
        .next ({ s with part := { s.part.unidled with
          jobs := (s.part.setJobState j.number .cancelling).jobs
          runs := { s.part.runs with
            pending := s.part.runs.pending.filter fun r : Run => r.job ≠ j.number
            current := s.part.runs.current.map fun r : Run =>
              if r.job = j.number then { r with state := .draining } else r } } }.answered
          .jobCancel tag .ok (.withdrawn ((s.part.runs.pending.filter fun r : Run => r.job = j.number).map Run.id)))) ∧
    (j.state ∈ [JobState.active, .holding, .held, .closing, .finishing] → s.link.outbox.length < 32 →
      s.part.ctl.mode ≠ .parked → s.part.jobs.queue = [] → (∀ b ∈ j.heldBins, (s.part.bin b).set.job = some j.number) →
      let p := s.part
      let waits (b : Nat) : Bool := (p.bin b).set.inboundSheets ≠ 0
      let freed := j.heldBins.filter fun b => (p.bin b).state = .assigned ∧ ¬ waits b
      let marked := j.heldBins.filter fun b => (p.bin b).state ∈ [BinState.assigned, .filling] ∧ waits b
      let voided := j.heldBins.filter fun b => ((p.bin b).state = .filling ∧ ¬ waits b) ∨ (p.bin b).state = .stitchWait
      let counted := j.heldBins.filter fun b => (p.bin b).state ∈ [BinState.filling, .stitchWait]
      let told := p.jobs.jobs.map fun i =>
        if i.number = j.number then
          { i with
            state := .cancelling
            bins := i.bins.map fun e => if e.bin ∈ freed then { e with released := true } else e
            tallies := { i.tallies with
              empty := i.tallies.empty + freed.length, voided := i.tallies.voided + counted.length } }
        else i
      let started : Prop := ∃ r ∈ p.runs.current.toList ++ p.runs.finishing, r.job = j.number
      let carried : Prop := ∃ c ∈ p.conv.trip, c.job = some j.number
      let cancels (jobs : List Job) (ns : List Notice) : Prop :=
        ∃ t : Part,
          exec (.jobCancel tag f) s =
            .next (({ s with part := { p.unidled with
              jobs := { p.jobs with jobs := jobs }
              bins := t.bins
              runs := { p.runs with
                pending := p.runs.pending.filter fun r : Run => r.job ≠ j.number
                current := p.runs.current.map fun r : Run =>
                  if r.job = j.number then { r with state := .draining } else r }
              carriage := { p.carriage with
                queue := p.carriage.queue.filter fun b => ¬ (b ∈ j.heldBins ∧ (p.bin b).state = BinState.stitchWait) }
              conv := { p.conv with queue :=
                p.conv.queue ++ voided.map fun b => ({ bin := b, placeable := none } : EjectEntry) } } }.answered
              .jobCancel tag .ok (.withdrawn ((p.runs.pending.filter fun r : Run => r.job = j.number).map Run.id))).queued ns) ∧
          (∀ b ∈ freed, t.bin b = { state := .free, set := {} }) ∧
          (∀ b ∈ marked, t.bin b = { p.bin b with set := { (p.bin b).set with void := true } }) ∧
          (∀ b ∈ voided, t.bin b =
            { state := .ejectWait
              set := { (p.bin b).set with
                void := true, plan := some { stitches := 0, h := 0, clinch := 0, wire := 0, reason := none } } }) ∧
          (∀ b, b ∉ freed → b ∉ marked → b ∉ voided → t.bin b = p.bin b)
      ((∃ e ∈ j.bins, e.released = false ∧ e.bin ∉ freed) ∨ started ∨ carried → cancels told []) ∧
      ((∀ e ∈ j.bins, e.released = true ∨ e.bin ∈ freed) → ¬ started → ¬ carried →
        cancels (told.filter fun i => i.number ≠ j.number)
          [.jobDone j.number .cancelled j.copies
            { j.tallies with empty := j.tallies.empty + freed.length }])) ∧
    (j.state = .cancelling → exec (.jobCancel tag f) s = .next (s.answered .jobCancel tag .jobState .empty))

/-! ## Requests: runs -/

/-- R23: the refusals after mode and length, in their order. -/
def Obligations.RunPostRefusals : Prop :=
  ∀ (s : State) (tag : Byte) (r : RunPostFields), Free s → s.part.ctl.mode ∈ [Mode.automatic, .parked, .waking] →
    r.job ≤ 65535 → r.page ≤ 255 → r.stock ≤ 255 → r.form ≤ 255 → r.count = r.copies.length → r.count ≤ 240 →
    (∀ k ∈ r.copies, k ≤ 255) →
    let refuses (e : Result) : Prop := exec (.runPost tag r.bytes) s = .next (s.answered .runPost tag e .empty)
    (¬ r.InRange → refuses .badField) ∧
    (r.InRange → s.part.job? r.job = none → refuses .noSuchJob) ∧
    (∀ j, r.InRange → s.part.job? r.job = some j →
      ((∃ k ∈ r.copies, j.copies < k) → refuses .badField) ∧
      ((∀ k ∈ r.copies, k ≤ j.copies) →
        ((s.part.stockAt r.stock).defined = false → refuses .stockUndefined) ∧
        ((s.part.stockAt r.stock).defined = true →
          (j.state ≠ .active → refuses .jobState) ∧
          (j.state = .active → s.part.runs.current.isSome = true → s.part.runs.pending.isSome = true → refuses .slotsFull))))

/-- R20, R24, R25, R27, R142: an accepted run enters the PENDING slot, or is promoted into the empty CURRENT slot with the
caliper of its stock; in PARKED the part wakes. -/
def Obligations.RunPostEntersASlot : Prop :=
  ∀ (s : State) (tag : Byte) (r : RunPostFields) (j : Job), Free s → s.link.outbox.length < 32 → r.InRange →
    s.part.job? r.job = some j → j.state = .active → (∀ k ∈ r.copies, k ≤ j.copies) → (s.part.stockAt r.stock).defined = true →
    let id := s.part.runs.takeId
    let selected := if r.form = 0 then List.range' 1 j.copies else (List.range' 1 48).filter fun k => r.copies.contains k
    let res : Result := if r.form = 0 ∨ selected = r.copies then .ok else .okAdjusted
    let run (c : Option Nat) (st : RunState) : Run :=
      { id := id, job := r.job, page := r.page, stock := r.stock, caliper := c, selected := selected, assigned := 0
        deposited := 0, purged := [], lost := [], unprinted := [], state := st }
    let c := (s.part.stockAt r.stock).caliper
    let promoted (ctl : ModeCtl) : State :=
      { s with part := { s.part with
        ctl := ctl, runs := { s.part.runs with current := some (run (some c) .current), nextId := id + 1 } } }
    let answers (t : State) (slot : Slot) : State := t.answered .runPost tag res (.posted id slot selected.length)
    (s.part.ctl.mode ∈ [Mode.automatic, .parked, .waking] → s.part.runs.current.isSome = true → s.part.runs.pending = none →
      exec (.runPost tag r.bytes) s =
        .next (answers { s with part := { s.part.unidled with
          ctl := { s.part.unidled.ctl with parkPending := false }
          runs := { s.part.runs with pending := some (run none .pending), nextId := id + 1 } } } .pending)) ∧
    (s.part.ctl.mode = .automatic → s.part.runs.current = none →
      exec (.runPost tag r.bytes) s =
        .next (answers (promoted { s.part.ctl with parkPending := false, idleTimer := none }) .current)) ∧
    (s.part.ctl.mode = .waking → s.part.runs.current = none →
      exec (.runPost tag r.bytes) s = .next (answers (promoted { s.part.ctl with parkPending := false }) .current)) ∧
    (s.part.ctl.mode = .parked → s.part.runs.current = none →
      exec (.runPost tag r.bytes) s =
        .next ((answers (promoted { s.part.ctl with
            parkPending := false, mode := .waking, wakingDeadline := some (s.part.now + 4000) }) .current).queued
          [.modeNow .waking (some .parked) .wake none s.part.ctl.doorOpen s.part.ctl.keyOn]))

/-- R32, R33, R30: the PENDING run is removed; the CURRENT run is cut at its assigned count and settles on the finishing list or
is done at once; a run that only settles is refused, and so is an identifier that names no live run. -/
def Obligations.RunWithdrawBySlot : Prop :=
  ∀ (s : State) (tag : Byte) (id : RunId), Free s → s.link.outbox.length < 32 → s.part.ctl.mode.Serving →
    (∀ r ∈ s.part.runs.pending, (s.part.runs.current.map Run.id) ≠ some id → r.id = id → s.part.runs.current.isSome = true →
      (∀ j, s.part.job? r.job = some j → j.state ≠ .closing ∧ j.state ≠ .cancelling) →
      exec (.runWithdraw tag [id]) s =
        .next ({ s with part := { s.part.unidled with runs := { s.part.runs with pending := none } } }.answered .runWithdraw tag
          .ok (.cut .pending 0 0))) ∧
    (∀ r ∈ s.part.runs.current, r.id = id → s.part.runs.pending = none →
      (∀ j, s.part.job? r.job = some j → j.state ≠ .closing ∧ j.state ≠ .cancelling ∧ j.state ≠ .holding) →
      let cut : Run :=
        { r with selected := r.selected.take r.assigned, unprinted := r.unprinted ++ r.selected.drop r.assigned }
      let n := min r.assigned r.selected.length
      let answers (p : Part) : State :=
        { s with part := p }.answered .runWithdraw tag .ok (.cut .current n (r.selected.length - n))
      ((∃ t ∈ s.part.path.tickets, t.ref.map RunRef.run = some id) →
        exec (.runWithdraw tag [id]) s =
          .next (answers { s.part.unidled with runs := { s.part.runs with
            current := none, finishing := s.part.runs.finishing ++ [{ cut with state := .finishing }] } })) ∧
      ((∀ t ∈ s.part.path.tickets, t.ref.map RunRef.run ≠ some id) → s.part.AtWork →
        exec (.runWithdraw tag [id]) s =
          .next ((answers { s.part.unidled with runs := { s.part.runs with current := none } }).queued
            [.runDone id r.job r.page n r.deposited r.purged r.lost cut.unprinted]))) ∧
    ((s.part.runs.current.map Run.id) ≠ some id → (s.part.runs.pending.map Run.id) ≠ some id →
      ((∃ r ∈ s.part.runs.finishing, r.id = id) →
        exec (.runWithdraw tag [id]) s = .next (s.answered .runWithdraw tag .jobState .empty)) ∧
      ((∀ r ∈ s.part.runs.finishing, r.id ≠ id) →
        exec (.runWithdraw tag [id]) s = .next (s.answered .runWithdraw tag .badField .empty)))

/-! ## Requests: stock and wire -/

/-- R75: the mode, the length, the code; then the entry holds the clamped caliper, and the answer says what was stored. -/
def Obligations.StockSetDefinesTheEntry : Prop :=
  ∀ (s : State) (tag : Byte) (f : List Byte), Free s → f.length ≤ 248 →
    let refuses (e : Result) : Prop := exec (.stockSet tag f) s = .next (s.answered .stockSet tag e .empty)
    let c := byteAt f 0
    let v := wordAt f 1
    let stored := if v < 50 then 50 else if 400 < v then 400 else v
    let slot := s.part.runs.current.isSome || s.part.runs.pending.isSome
    let res : Result := if stored ≠ v then .okAdjusted else if slot then .okDeferred else .ok
    (s.part.ctl.mode = .starting ∨ s.part.ctl.mode = .halted → refuses .wrongMode) ∧
    (s.part.ctl.mode.Serving → f.length ≠ 3 → refuses .badLength) ∧
    (s.part.ctl.mode.Serving → f.length = 3 → 7 < c → refuses .badField) ∧
    (s.part.ctl.mode.Serving → f.length = 3 → c ≤ 7 →
      ∃ t : Part,
        exec (.stockSet tag f) s =
          .next ({ s with part := { s.part with stock := t.stock } }.answered .stockSet tag res (.caliper stored slot)) ∧
        t.stockAt c = { defined := true, caliper := stored } ∧ ∀ d, d ≠ c → t.stockAt d = s.part.stockAt d)

/-- R95, R96, R151: WIRE_LOAD stores the length, at most 9,999,999, and WIRE_LOW is latched where less than 5000 mm is left; no
set waits for the carriage and the carriage is at work, so that nothing else follows. -/
def Obligations.WireLoadStoresTheLength : Prop :=
  ∀ (s : State) (tag : Byte) (f : List Byte), Free s → s.link.outbox.length < 32 → s.part.ctl.mode ≠ .halted → f.length = 4 →
    s.part.carriage.queue = [] → s.part.AtWork →
    let v := longAt f 0
    let stored := if 9999999 < v then 9999999 else v
    let res : Result := if stored = v then .ok else .okAdjusted
    let loaded : Part := { s.part.unidled with carriage := { s.part.carriage with wire := stored } }
    let set := s.part.faults.attention ||| 0x01#8
    (5000 ≤ stored ∨ hasCondition s.part.faults.attention .wireLow = true →
      exec (.wireLoad tag f) s = .next ({ s with part := loaded }.answered .wireLoad tag res (.wire stored))) ∧
    (stored < 5000 → hasCondition s.part.faults.attention .wireLow = false →
      hasCondition s.part.faults.reportMask .wireLow = true →
      exec (.wireLoad tag f) s =
        .next (({ s with part := { loaded with faults := { s.part.faults with attention := set } } }.answered .wireLoad tag res
          (.wire stored)).queued [.attnRaised .wireLow set]))

/-! ## Requests: locks -/

/-- R126: what DRAWER_LOCK refuses. R127, R117, R129: a lock of a flexible drawer that lies idle: the drawer is the
destination's, OPEN and locked, it is used, its copy is rewritten, and DRAWER_CHANGED follows the answer. A drawer locked to the
destination already stays. That an empty CLOSING drawer of another destination is taken so is the model's choice
(notes/assumptions/12.md). -/
def Obligations.DrawerLockGivesTheDrawer : Prop :=
  ∀ (s : State) (tag : Byte) (f dest : Nat), Free s → s.link.outbox.length < 32 → s.part.ctl.mode.Serving →
    f ≤ 255 → dest ≤ 65535 →
    let m := s.part.drawers
    let fields := putByte f ++ putWord dest
    let refuses (e : Result) : Prop := exec (.drawerLock tag fields) s = .next (s.answered .drawerLock tag e .empty)
    let flexible : Prop := (17 ≤ f ∧ f ≤ 20) ∧ 1 ≤ dest ∧ dest ≤ 4095
    let lockedElsewhere : Prop :=
      ∃ d, 17 ≤ d ∧ d ≤ 20 ∧ d ≠ f ∧ (m.drawer d).locked = true ∧ (m.drawer d).dest = some dest
    (f = 0 ∨ 20 < f ∨ dest = 0 ∨ 4095 < dest → refuses .badField) ∧
    (1 ≤ f ∧ f ≤ 16 → 1 ≤ dest ∧ dest ≤ 4095 → refuses .notFlexible) ∧
    (flexible →
      (lockedElsewhere ∨ ((m.drawer f).locked = true ∧ (m.drawer f).dest ≠ some dest) ∨
        ((m.drawer f).dest ≠ some dest ∧ ((m.drawer f).pile.map Pile.count ≠ some 0 ∨ (m.drawer f).awaited = true))) →
      refuses .drawerBusy) ∧
    (flexible → ¬ lockedElsewhere → (m.drawer f).locked = true → (m.drawer f).dest = some dest →
      exec (.drawerLock tag fields) s = .next (s.answered .drawerLock tag .ok .empty)) ∧
    (flexible → ¬ lockedElsewhere → (m.drawer f).locked = false → (m.drawer f).dest ≠ some dest → (m.drawer f).awaited = false →
      (∃ t, (m.drawer f).pile = some { count := 0, stack := t }) → s.part.AtWork →
      (∀ d, 1 ≤ d ∧ d ≤ 20 → (m.drawer d).state = .open → (m.drawer d).dest ≠ some dest) →
      ∃ k : DrawerMap,
        exec (.drawerLock tag fields) s =
          .next (({ s with part := { s.part.unidled with drawers := k } }.answered .drawerLock tag .ok .empty).queued
            [.drawerChanged { drawer := f, dest := some dest, before := (m.drawer f).dest, state := .open, locked := true
                              pile := (m.drawer f).pile, cause := .locked }]) ∧
        k.drawer f = { m.drawer f with dest := some dest, state := .open, locked := true } ∧
        k.nvOf f = { dest := some dest, locked := true } ∧
        (∀ d, d ≠ f → k.drawer d = m.drawer d ∧ k.nvOf d = m.nvOf d) ∧ k.markers = m.markers ∧
        (f = 17 → k.tree = { m.tree with upperPair := true, second17 := true }) ∧
        (f = 18 → k.tree = { m.tree with upperPair := true, second17 := false }) ∧
        (f = 19 → k.tree = { m.tree with upperPair := false, second19 := true }) ∧
        (f = 20 → k.tree = { m.tree with upperPair := false, second19 := false }))

/-- R128: an unlock clears the lock and keeps the rest; of a drawer that is not locked it changes nothing; its refusals. -/
def Obligations.DrawerUnlockClearsTheLock : Prop :=
  ∀ (s : State) (tag b : Byte), Free s → s.link.outbox.length < 32 → s.part.ctl.mode.Serving →
    let m := s.part.drawers
    let f := b.toNat
    let answers (r : Result) : Prop := exec (.drawerUnlock tag [b]) s = .next (s.answered .drawerUnlock tag r .empty)
    (f = 0 ∨ 20 < f → answers .badField) ∧
    (1 ≤ f ∧ f ≤ 16 → answers .notFlexible) ∧
    (17 ≤ f ∧ f ≤ 20 → (m.drawer f).locked = false → answers .ok) ∧
    (17 ≤ f ∧ f ≤ 20 → (m.drawer f).locked = true → s.part.AtWork →
      ∃ k : DrawerMap,
        exec (.drawerUnlock tag [b]) s =
          .next (({ s with part := { s.part.unidled with drawers := k } }.answered .drawerUnlock tag .ok .empty).queued
            [.drawerChanged { drawer := f, dest := (m.drawer f).dest, before := (m.drawer f).dest, state := (m.drawer f).state
                              locked := false, pile := (m.drawer f).pile, cause := .unlocked }]) ∧
        k.drawer f = { m.drawer f with locked := false } ∧ k.nvOf f = { dest := (m.drawer f).dest, locked := false } ∧
        (∀ d, d ≠ f → k.drawer d = m.drawer d ∧ k.nvOf d = m.nvOf d) ∧ k.markers = m.markers ∧ k.tree = m.tree)

/-! ## Requests: attention and faults -/

/-- R152, R153: each named condition is cleared unless its level is present, a WIRE_LOW named in STARTING too
(notes/assumptions/11.md), the answer carries the set before and after, and an owed ATTN_RAISED is dropped with NOTICE_LOST; a code outside the eight, or a count outside 1 to 8,
clears nothing. -/
def Obligations.AttnClearKeepsPresentLevels : Prop :=
  ∀ (s : State) (tag : Byte) (cs : List Byte), Free s → s.part.ctl.mode ≠ .halted → cs.length ≤ 240 →
    let fields := BitVec.ofNat 8 cs.length :: cs
    let before := s.part.faults.attention
    (1 ≤ cs.length ∧ cs.length ≤ 8 → (∀ c ∈ cs, c.toNat ≤ 7) →
      ∃ after : BitVec 8,
        exec (.attnClear tag fields) s =
          .next ({ s with part := { s.part with faults := { s.part.faults with
            attention := after, owed := if 6#8 ∈ cs then none else s.part.faults.owed } } }.answered .attnClear tag .ok
            (.attention before after)) ∧
        ∀ c : Condition, hasCondition after c = true ↔
          hasCondition before c = true ∧
            (BitVec.ofNat 8 (conditionBit c) ∉ cs ∨
              (s.part.levels.of c = true ∧ ¬ (s.part.ctl.mode = .starting ∧ c = .wireLow)))) ∧
    (cs.length = 0 ∨ 8 < cs.length ∨ (∃ c ∈ cs, 7 < c.toNat) →
      exec (.attnClear tag fields) s = .next (s.answered .attnClear tag .badField .empty))

/-- R150: FAULT_CLEAR, in every mode, answers with the record as it stood and empties it. -/
def Obligations.FaultClearEmptiesTheRecord : Prop :=
  ∀ (s : State) (tag : Byte), Free s →
    exec (.faultClear tag []) s =
      .next ({ s with part := { s.part with faults := { s.part.faults with
        first := none, later := 0, overwritten := false } } }.answered .faultClear tag .ok
        (.fault s.part.faults.first s.part.faults.later s.part.faults.overwritten))

/-! ## Requests: resume, park, restart -/

/-- R139 checks 3 to 5, R94: an accepted RESUME sets the resume flag and starts the carriage homing; its answer carries what the
audit (R70 to R72), the conveyor check of a kept trip (R114) and the settlement of a held set (R98) found. They are stated one at
a time: where the audit finds something no trip is kept and no held set is left; where a trip is kept, or a set held, the sensors
agree with the records. That a set held with its cycle still in progress goes back without that stitch is the model's choice
(notes/assumptions/10.md). -/
def Obligations.ResumeStartsHoming : Prop :=
  ∀ (s : State) (tag : Byte) (occ : Occupancy), Free s → s.part.ctl.mode = .service →
    let t := s.withOccupancy occ
    let answers (u : State) (r : Result) (f : ReplyFields) : Prop :=
      exec (.resume tag [] occ) s = .next (u.answered .resume tag r f)
    (s.part.ctl.resumeFlag = true → answers t .okDeferred .empty) ∧
    (s.part.ctl.resumeFlag = false → s.part.ctl.doorOpen = true ∨ s.part.ctl.keyOn = true → answers t .doorOpen .empty) ∧
    (s.part.ctl.resumeFlag = false → s.part.ctl.doorOpen = false → s.part.ctl.keyOn = false →
      s.part.ctl.doorCycle ≠ .none → answers t .pathNotCleared .empty) ∧
    (s.part.ctl.resumeFlag = false → s.part.ctl.doorOpen = false → s.part.ctl.keyOn = false → s.part.ctl.doorCycle = .none →
      let p := t.part
      let home (q : Part) : State := { t with part := { q with
        ctl := { p.ctl with resumeFlag := true }
        carriage := { q.carriage with
          state := .homing, position := .unknown, target := some .home, deadline := some (p.now + 6000) } } }
      (p.SensorsAgree occ → p.conv.trip = none → p.carriage.held = none →
        answers (home p) .ok (.resumed 0 0 0 0 .noTrip .none)) ∧
      (p.conv.trip = none → p.jobs.queue = [] → (∀ h ∈ p.carriage.held, h.bin ∈ p.setsGone occ) →
        (∀ j ∈ p.jobs.jobs, j.state = .finishing ∨ j.state = .cancelling →
          ∃ e ∈ j.bins, e.released = false ∧ e.bin ∉ p.setsGone occ ∧ e.bin ∉ p.orphansGone occ) →
        ∃ u : Part, Audits p u occ ∧
          answers (home { p with jobs := u.jobs, path := u.path, bins := u.bins, carriage := u.carriage, conv := u.conv }) .ok
            (.resumed (p.sensedBins occ [.filling] false).length (p.sensedBins occ [.assigned] true).length
              (p.sensedBins occ [.free] true).length ((p.setsGone occ).length + (p.orphansGone occ).length) .noTrip .none)) ∧
      (∀ c : Trip, p.SensorsAgree occ → p.carriage.held = none → p.jobs.queue = [] → p.conv.trip = some c →
        1 ≤ c.bin ∧ c.bin ≤ 48 → c.job = (p.bin c.bin).set.job →
        let a := p.path.account
        let occupied := occ.bins.getLsbD (c.bin - 1)
        let finds (q : Part) (f : Finding) : Prop := answers (home q) .ok (.resumed 0 0 0 0 f .none)
        let freed : Part :=
          { p.setBin c.bin { state := .free, set := {} } with jobs := p.jobs.released c.job c.bin }
        (c.header = some .pending → occupied = true →
          let carries (h : Header) : Part := { p with
            path := { p.path with account := { a with
              inBins := a.inBins - BitVec.ofNat 32 c.sheets, inReturn := a.inReturn + BitVec.ofNat 32 c.sheets } }
            conv := { p.conv with
              state := .carrying, trip := some { c with header := some h, proving := false, deadline := some (p.now + 5000) } } }
          let joins : Prop := p.conv.tray.groups.getLast?.map Group.key = some c.dest
          (joins → finds (carries .joins) .slipResumed) ∧
          (¬ joins → p.conv.slipOut = true → hasCondition p.faults.attention .slipEmpty = true →
            finds (carries .unmarked) .slipResumed) ∧
          (¬ joins → p.conv.slipOut = false →
            finds { p with conv := { p.conv with
                state := .slip, feeder := .feeding
                trip := some { c with header := some .pending, proving := false, deadline := some (p.now + 1000) } } }
              .slipResumed)) ∧
        (c.header = some .pending → occupied = false → c.place = .overflow → s.link.outbox.length + 2 ≤ 32 →
          ∀ j : Job, c.job = some j.number → p.job? j.number = some j →
          let taken (jobs : List Job) (ns : List Notice) : Prop :=
            exec (.resume tag [] occ) s =
              .next (((home { freed with
                jobs := { p.jobs with jobs := jobs }
                path := { p.path with account := { a with
                  inBins := a.inBins - BitVec.ofNat 32 c.sheets, removed := a.removed + BitVec.ofNat 32 c.sheets } }
                conv := { p.conv with state := .idle, trip := none } }).answered .resume tag .ok
                  (.resumed 0 0 0 0 .setTaken .none)).queued
                (.setPlaced
                  { job := c.job, copy := c.copy, bin := c.bin, dest := c.dest, place := .lostInReturn, void := c.void
                    outcome := if c.void = true then .void else match c.reason with | some r => .unstitched r | none => .stitched
                    made := c.made, h := c.h, sheets := c.sheets, header := none } :: ns))
          (j.state ∈ [JobState.waiting, .active, .holding, .held, .closing] ∨
              (∃ e ∈ j.bins, e.released = false ∧ e.bin ≠ c.bin) →
            taken freed.jobs.jobs []) ∧
          (∀ o : JobOutcome, (∀ e ∈ j.bins, e.released = true ∨ e.bin = c.bin) →
            (j.state = .finishing ∧ o = .completed) ∨ (j.state = .cancelling ∧ o = .cancelled ∧
              ∀ r ∈ p.runs.current.toList ++ p.runs.finishing, r.job ≠ j.number) →
            taken (freed.jobs.jobs.filter fun i => i.number ≠ j.number) [.jobDone j.number o j.copies j.tallies])) ∧
        (c.header ≠ some .pending →
          let proves (q : Part) : Part := { q with conv := { p.conv with
            state := .carrying
            trip := some { c with
              emptied := c.emptied || !occupied, proving := true, deadline := some (p.now + 5000) } } }
          (c.emptied = true ∨ occupied = true → finds (proves p) .proving) ∧
          (c.emptied = false → occupied = false → finds (proves freed) .proving))) ∧
      (∀ h : Held, p.SensorsAgree occ → p.conv.trip = none → p.carriage.held = some h → 1 ≤ h.bin ∧ h.bin ≤ 48 →
        hasCondition p.faults.attention .wireOut = true →
        let set := (p.bin h.bin).set
        (h.cond = .jammed →
          answers (home { p.setBin h.bin { state := .ejectWait, set := { set with
                plan := some { set.planned with wire := 0, reason := some .stitchJam } } } with
              carriage := { p.carriage with held := none }
              conv := { p.conv with queue := p.conv.queue ++ [{ bin := h.bin, placeable := none }] } })
            .ok (.resumed 0 0 0 0 .noTrip .givenUp)) ∧
        (∀ us ns, h.cond ≠ .jammed → p.carriage.queue = us ++ ns → (∀ b ∈ us, p.priorityOf b = .urgent) →
          (∀ b ∈ ns, p.priorityOf b = .normal) →
          let made := if h.cond = .taken ∧ p.carriage.state = .stitching then set.made - 1 else set.made
          answers (home { p.setBin h.bin { state := .stitchWait, set := { set with made := made } } with
              carriage := { p.carriage with
                held := none
                queue := if p.priorityOf h.bin = .urgent then h.bin :: (us ++ ns) else us ++ h.bin :: ns } })
            .ok (.resumed 0 0 0 0 .noTrip .returned))))

/-- R140: PARK by mode. R144: RESTART, in every mode, is answered OK at once, and nothing else changes until its answer has left
the link. -/
def Obligations.ParkAndRestart : Prop :=
  ∀ (s : State) (tag : Byte), Free s → s.link.outbox.length < 32 →
    let c := s.part.ctl
    let waits : Prop :=
      exec (.park tag []) s =
        .next ({ s with part := { s.part with ctl := { c with parkPending := true } } }.answered .park tag .okDeferred .empty)
    (c.mode = .automatic → s.part.IdleCond →
      exec (.park tag []) s =
        .next (({ s with part := { s.part with
            ctl := { c with mode := .parked, parkPending := false, idleTimer := none }
            path := { s.part.path with gate := .released } } }.answered .park tag .ok .empty).queued
          [.modeNow .parked (some .automatic) .park none c.doorOpen c.keyOn])) ∧
    (c.mode = .automatic → ¬ s.part.IdleCond → waits) ∧
    (c.mode = .waking → waits) ∧
    (c.mode = .parked → exec (.park tag []) s = .next (s.answered .park tag .ok .empty)) ∧
    exec (.restart tag []) s = .next (s.answered .restart tag .ok .empty)

/-! ## The press link -/

/-- R154 to R156: a whole request frame with a right check, received by an idle receiver, runs the request that its body spells,
RESUME reading the sampled occupancy sensors; an IDENTIFY on a free link is answered. -/
def Obligations.ARequestFrameRunsItsRequest : Prop :=
  ∀ (s : State) (body : List Byte) (occ : Occupancy), s.link.rx = .idle →
    (1 ≤ body.length ∧ body.length ≤ 250 →
      exec (.frameReceived (frameOf body) occ) s = exec (decodeBody body occ) (s.withOccupancy occ)) ∧
    (∀ tag, Free s → exec (.frameReceived (frameOf [0x01, tag]) occ) s =
      .next ((s.withOccupancy occ).answered .identify tag .ok (.identity 0x4F50 4820 1 48 20)))

/-- 11 section 11.5, R156: the body of every command that is a frame spells that command again. -/
def Obligations.FrameBodiesSpellTheirCommands : Prop :=
  ∀ (i : Instr) (body : List Byte) (occ : Occupancy), i.wf = true → bodyOf i = some body →
    (∀ tag f o, i = .resume tag f o → o = occ) → decodeBody body occ = i

/-- R154, R159: bytes that start no frame are dropped; a length outside 1 to 250, a wrong check byte, and 50 ms without a byte
within a frame discard the frame, count it and latch LINK_NOISE; a complete or absent frame has no time limit. -/
def Obligations.BrokenFramesAreNoise : Prop :=
  ∀ (s : State) (occ : Occupancy), Busy 1 s →
    let t := s.withOccupancy occ
    let noise (u : State) : State :=
      { u with link := { u.link with rx := .idle, noise := min 65535 (u.link.noise + 1) } }.latched .linkNoise
    (∀ b : Byte, s.link.rx = .idle → b ≠ 0xA5 → exec (.frameReceived [b] occ) s = .next t) ∧
    (∀ b : Byte, s.link.rx = .idle → b.toNat = 0 ∨ 250 < b.toNat → exec (.frameReceived [0xA5, b] occ) s = .next (noise t)) ∧
    (∀ (body : List Byte) (c : Byte), s.link.rx = .idle → 1 ≤ body.length ∧ body.length ≤ 250 →
      c ≠ crc8 (BitVec.ofNat 8 body.length :: body) →
      exec (.frameReceived (0xA5 :: BitVec.ofNat 8 body.length :: body ++ [c]) occ) s = .next (noise t)) ∧
    (s.link.rx ≠ .idle → exec .frameTimeout s = .next (noise s)) ∧
    (s.link.rx = .idle → exec .frameTimeout s = .next s)

/-- R155, R158, R153: while a notice is in transmission a request is taken and its answer waits; while an answer waits
two frames are held and a third is an overrun, which changes no other state; a notice that finds 32 waiting is discarded, its
number used up, NOTICE_LOST latched and, where its mask bit is on, its notice owed. -/
def Obligations.BuffersAreBounded : Prop :=
  ∀ (s : State) (tag : Byte) (body : List Byte) (n : Numbered) (a : Answer), s.part.Settled →
    let f := s.part.faults
    let set := f.attention ||| 0x40#8
    let next : Link := { s.link with seq := s.link.seq + 1 }
    (s.link.sending = some (.notice n) → s.link.answer = none → s.link.buffer = [] →
      exec (.identify tag []) s = .next { s with link := { s.link with
        answer := some { kind := 0x01, tag := tag, result := .ok, fields := .identity 0x4F50 4820 1 48 20 } } }) ∧
    (s.link.sending.isSome = true → s.link.answer = some a → unknownBodyOk body = true → body.length ≤ 250 →
      (s.link.buffer.length < 2 →
        exec (.unknownKind body) s = .next { s with link := { s.link with buffer := s.link.buffer ++ [body] } }) ∧
      (s.link.buffer.length = 2 →
        exec (.unknownKind body) s =
          .next { s with link := { s.link with overrun := min 65535 (s.link.overrun + 1) } })) ∧
    (32 ≤ s.link.outbox.length →
      (hasCondition f.attention .noticeLost = true → s.offer n.notice = { s with link := next }) ∧
      (hasCondition f.attention .noticeLost = false → s.offer n.notice =
        { s with
          part := { s.part with faults := { f with
            attention := set, owed := if hasCondition f.reportMask .noticeLost = true then some set else f.owed } }
          link := next }))

/-- R158, R153: at the end of a frame that is no RESTART's answer the waiting answer is sent, else the oldest notice, whose
place in the outbox an owed ATTN_RAISED takes. -/
def Obligations.TheNextFrameIsSent : Prop :=
  ∀ (s : State) (occ : Occupancy) (x : Sent), s.part.Settled → s.link.sending = some x → s.link.buffer = [] →
    (∀ a, x = .answer a → ¬ (a.kind = 0x13 ∧ a.result = .ok)) →
    let t := s.withOccupancy occ
    (∀ a, s.link.answer = some a →
      exec (.frameSent occ) s = .next { t with link := { s.link with sending := some (.answer a), answer := none } }) ∧
    (∀ n rest, s.link.answer = none → s.link.outbox = n :: rest → s.part.faults.owed = none →
      exec (.frameSent occ) s = .next { t with link := { s.link with sending := some (.notice n), outbox := rest } }) ∧
    (∀ n rest set, s.link.answer = none → s.link.outbox = n :: rest → rest.length < 32 → s.part.faults.owed = some set →
      exec (.frameSent occ) s =
        .next { t with
          part := { t.part with faults := { s.part.faults with owed := none } }
          link := { s.link with
            sending := some (.notice n)
            outbox := rest ++ [{ seq := s.link.seq, notice := .attnRaised .noticeLost set }], seq := s.link.seq + 1 } }) ∧
    (s.link.answer = none → s.link.outbox = [] →
      exec (.frameSent occ) s = .next { t with link := { s.link with sending := none } })

/-! ## Starts and halts -/

/-- R134, R144: power-on, and the end of an accepted RESTART's answer: what every start sets, what power-on sets anew, what a
restart keeps. -/
def Obligations.StartsFollowTheTable : Prop :=
  ∀ (s : State) (l : Lines) (occ : Occupancy),
    (∃ t, exec (.powerOn l) s = .next t ∧ Starts l s.part.drawers t ∧ t.part.ctl.idleTime = 600 ∧ t.part.carriage.wire = 0 ∧
      t.part.stockAt 0 = { defined := true, caliper := 100 } ∧
      (∀ c, 1 ≤ c ∧ c ≤ 7 → (t.part.stockAt c).defined = false) ∧
      t.part.faults.first = none ∧ t.part.faults.later = 0 ∧ t.part.faults.overwritten = false ∧
      t.part.faults.fatalAction = .halt ∧ t.part.faults.reportMask = 0xFF) ∧
    (∀ tag f, s.link.sending = some (.answer { kind := 0x13, tag := tag, result := .ok, fields := f }) →
      ∃ t, exec (.frameSent occ) s = .next t ∧ Starts { s.part.lines with occ := occ } s.part.drawers t ∧ Keeps s t ∧
        t.part.faults.first = s.part.faults.first ∧ t.part.faults.later = s.part.faults.later ∧
        t.part.faults.overwritten = s.part.faults.overwritten)

/-- R90, R94, R143, R144, R147, R149: the commands that find the carriage lost. With the fatal action HALT, and in STARTING, the
part halts; with RESTART it starts again; the record keeps the fault as its first where it was empty or recoverable. -/
def Obligations.ALostCarriageHaltsOrRestarts : Prop :=
  ∀ (s : State) (c : Instr) (occ : Occupancy) (loc : Location) (b : Nat), s.part.Settled →
    s.part.ctl.mode ≠ .halted → 1 ≤ b ∧ b ≤ 48 →
    ((c = .homingDeadline occ ∧ loc = .none ∧ s.part.carriage.state = .homing ∧ s.part.carriage.deadline.isSome = true) ∨
      (s.part.carriage.state = .travelling ∧ s.part.carriage.target = some (.bin b) ∧
        ((c = .travelDeadline occ ∧ loc = .bin b ∧ s.part.carriage.deadline.isSome = true) ∨
          (c = .carriageHome occ ∧ loc = .none) ∨
          (∃ d, c = .carriageAt d occ ∧ loc = .bin d ∧ d ≠ b ∧ 1 ≤ d ∧ d ≤ 48)))) →
    let e : FaultEntry :=
      { kind := .carriageLost, location := loc, job := s.part.carriage.held.bind fun h => (s.part.bin h.bin).set.job
        mode := s.part.ctl.mode }
    let records (t : State) : Prop :=
      (s.part.faults.first = none → t.part.faults.first = some e ∧ t.part.faults.overwritten = s.part.faults.overwritten) ∧
      (∀ f ∈ s.part.faults.first, isFatal f.kind = false →
        t.part.faults.first = some e ∧ t.part.faults.overwritten = true ∧ t.part.faults.later = s.part.faults.later) ∧
      (∀ f ∈ s.part.faults.first, isFatal f.kind = true →
        t.part.faults.first = some f ∧ t.part.faults.later = min 255 (s.part.faults.later + 1))
    (s.part.ctl.mode = .starting ∨ s.part.faults.fatalAction = .halt →
      ∃ t, exec c s = .next t ∧ Halts s t ∧ records t) ∧
    (s.part.ctl.mode ≠ .starting → s.part.faults.fatalAction = .restart →
      ∃ t, exec c s = .next t ∧ Starts { s.part.lines with occ := occ } s.part.drawers t ∧ Keeps s t ∧ records t)

/-- R143: in HALTED every event and deadline leaves every block as it stands, the sensor lines apart; and no event of a bin or
drawer outside the tower and the wall is one. R39, R50: in SERVICE, in STARTING and while the path is stopped, ENTRY and DEPOSIT
are ignored and PURGE_ARRIVAL is counted in the purge tray count alone. R107, R115: ARRIVAL is ignored in STARTING, and in
SERVICE with the conveyor IDLE or STOPPED. -/
def Obligations.HaltedIgnoresEvents : Prop :=
  ∀ (s : State) (b d : Nat) (occ : Occupancy) (on : Bool) (pl : Place), s.part.Settled →
    1 ≤ b ∧ b ≤ 48 → 1 ≤ d ∧ d ≤ 20 → pl = .overflow ∨ pl = .drawer d →
    let p := s.part
    (p.ctl.mode = .halted → ∀ c ∈ [Instr.entry, .deposit b, .purgeArrival, .purgeFullOn, .purgeFullOff, .ticketDeadline, .binEmptied b,
        .carriageAt b occ, .travelDeadline occ, .stitchDone, .stitchCycleDeadline, .carriageHome occ, .homingDeadline occ,
        .slipFed, .slipFeedDeadline, .slipLow on, .slipOut on, .arrival pl, .carryDeadline, .overflowEmptied, .collected d,
        .transportReady, .wakingDeadline, .idleTimerExpiry, .doorOpened, .doorClosed, .keyOn, .keyOff],
      ∃ l : Lines, exec c s = .next { s with part := { p with lines := l } }) ∧
    (p.ctl.mode = .service ∨ p.ctl.mode = .starting ∨ (p.path.stopped = true ∧ p.ctl.mode ≠ .halted) →
      exec .entry s = .next s ∧ exec (.deposit b) s = .next s ∧
      exec .purgeArrival s =
        .next { s with part := { p with path := { p.path with purgeCount := min 65535 (p.path.purgeCount + 1) } } }) ∧
    (p.ctl.mode = .starting ∨ (p.ctl.mode = .service ∧ (p.conv.state = .idle ∨ p.conv.state = .stopped)) →
      exec (.arrival pl) s = .next s)

/-- 00 section 5.1: a bin outside 1 to 48 and a drawer outside 1 to 20 have no sensor: the model's stop
(notes/assumptions/5.md). -/
def Obligations.NoSuchSensorFaults : Prop :=
  ∀ (s : State) (n : Nat) (occ : Occupancy),
    (n = 0 ∨ 48 < n →
      exec (.deposit n) s = .fault (.noSuchBin n) ∧ exec (.binEmptied n) s = .fault (.noSuchBin n) ∧
      exec (.carriageAt n occ) s = .fault (.noSuchBin n)) ∧
    (n = 0 ∨ 20 < n →
      exec (.arrival (.drawer n)) s = .fault (.noSuchDrawer n) ∧ exec (.collected n) s = .fault (.noSuchDrawer n))

/-! ## The sort path -/

/-- R40 to R46, R60, R26: a sheet of the CURRENT run, short of its total: the target by the run's state, the page, the bin and
the sums of R78; its ticket, the reservation, the counts and the gate. -/
def Obligations.EntryTicketsTheSheet : Prop :=
  ∀ (s : State) (r : Run) (j : Job) (e : BinEntry), s.part.Settled → s.part.ctl.mode = .automatic →
    s.part.path.stopped = false → s.part.path.tickets.length < 5 → s.part.runs.current = some r →
    r.assigned + 1 < r.selected.length → s.part.job? r.job = some j →
    j.bins[r.selected.getD r.assigned 0 - 1]? = some e →
    let p := s.part
    let b := e.bin
    let c := r.caliper.getD 0
    let set := (p.bin b).set
    let duplicate : Prop :=
      r.page ∈ set.pages ∨ ∃ t ∈ p.path.tickets, t.target = .bin b ∧ t.ref.map RunRef.page = some r.page
    let takes : Prop :=
      (p.bin b).state ∈ [BinState.assigned, .filling] ∧ set.pages.length + set.inboundSheets + 1 ≤ 60 ∧
        set.stack + set.inboundMicrons + c ≤ 7000
    let tickets (q : Part) (target : Target) (gate : Gate) : Prop :=
      exec .entry s = .next { s with part := { q with
        ctl := { p.ctl with idleTimer := none }
        runs := { p.runs with current := some { r with assigned := r.assigned + 1 } }
        path := { p.path with
          entryCount := p.path.entryCount + 1
          account := { p.path.account with
            entered := p.path.account.entered + 1, inFlight := p.path.account.inFlight + 1 }
          tickets := p.path.tickets ++
            [{ ordinal := p.path.entryCount + 1
               ref := some { run := r.id, job := r.job, page := r.page, copy := r.selected.getD r.assigned 0 }
               target := target, caliper := c, deadline := p.now + 1500 }]
          gate := gate } } }
    (r.state ≠ .draining → ¬ duplicate → takes →
      tickets (p.setBin b { p.bin b with set := { set with
        inboundSheets := set.inboundSheets + 1, inboundMicrons := set.inboundMicrons + c } }) (.bin b) (.bin b)) ∧
    (p.path.purgeFull = false →
      (r.state = .draining → tickets p (.purge .drain) .purge) ∧
      (r.state ≠ .draining → duplicate → tickets p (.purge .duplicate) .purge) ∧
      (r.state ≠ .draining → ¬ duplicate → ¬ takes → tickets p (.purge .capacity) .purge))

/-- R26, R27, R13: the sheet that brings the CURRENT run to its total: the run leaves its slot for the finishing list, since its
own ticket is in flight, and the PENDING run is promoted with the caliper of its stock; a job HOLDING is HELD. R41, R45, R46,
R151: a sheet without a run is a stray: STRAY_SHEET is latched, and it gets a ticket for the purge tray. -/
def Obligations.EntryAtTheRunBoundary : Prop :=
  ∀ s : State, Busy 1 s → s.part.ctl.mode = .automatic → s.part.path.stopped = false → s.part.path.tickets.length < 5 →
    let p := s.part
    let tickets (q : Part) (ref : Option RunRef) (target : Target) (c : Nat) (runs : RunCtl) (jobs : JobTable)
        (gate : Gate) : State :=
      { s with part := { q with
        ctl := { p.ctl with idleTimer := none }
        runs := runs, jobs := jobs
        path := { p.path with
          entryCount := p.path.entryCount + 1
          account := { p.path.account with
            entered := p.path.account.entered + 1, inFlight := p.path.account.inFlight + 1 }
          tickets := p.path.tickets ++
            [{ ordinal := p.path.entryCount + 1, ref := ref, target := target, caliper := c, deadline := p.now + 1500 }]
          gate := gate } } }
    (∀ (r : Run) (j : Job) (e : BinEntry), p.runs.current = some r → r.assigned + 1 = r.selected.length →
      r.state ≠ .draining → p.job? r.job = some j → j.bins[r.selected.getD r.assigned 0 - 1]? = some e →
      let b := e.bin
      let c := r.caliper.getD 0
      let set := (p.bin b).set
      let ref : RunRef := { run := r.id, job := r.job, page := r.page, copy := r.selected.getD r.assigned 0 }
      let runs : RunCtl := { p.runs with
        current := p.runs.pending.map fun q => { q with caliper := some (p.stockAt q.stock).caliper, state := .current }
        pending := none
        finishing := p.runs.finishing ++ [{ r with assigned := r.assigned + 1, state := .finishing }] }
      let leaves (jobs : JobTable) : State :=
        tickets (p.setBin b { p.bin b with set := { set with
          inboundSheets := set.inboundSheets + 1, inboundMicrons := set.inboundMicrons + c } }) (some ref) (.bin b) c runs jobs
          (.bin b)
      r.page ∉ set.pages → (∀ t ∈ p.path.tickets, ¬ (t.target = .bin b ∧ t.ref.map RunRef.page = some r.page)) →
      (p.bin b).state ∈ [BinState.assigned, .filling] → set.pages.length + set.inboundSheets + 1 ≤ 60 →
      set.stack + set.inboundMicrons + c ≤ 7000 →
      (j.state ≠ .holding → exec .entry s = .next (leaves p.jobs)) ∧
      (j.state = .holding →
        exec .entry s = .next ((leaves (p.setJobState j.number .held).jobs).queued [.jobHeld j.number]))) ∧
    (p.runs.current = none → p.path.purgeFull = false →
      exec .entry s = .next ((tickets p none (.purge .stray) 0 p.runs p.jobs .purge).latched .straySheet))

/-- R47, R62, R28 to R30: a deposit is matched to the oldest ticket for its bin: the sheet joins the set, the account moves, the
run is told; a run that settles with it on the finishing list is done. R63: at a VOID bin the sheet is recorded too; the first
sheet of a void set raises the voided sets tally, and with its last inbound sheet the bin goes to EJECT_WAIT under the void plan,
at the tail of the eject queue. -/
def Obligations.DepositSettlesTheSheet : Prop :=
  ∀ (s : State) (b : Nat) (t : Ticket) (ts us : List Ticket), Busy 1 s → s.part.ctl.mode = .automatic →
    s.part.path.stopped = false → 1 ≤ b ∧ b ≤ 48 → s.part.path.tickets = ts ++ t :: us → t.target = .bin b →
    (∀ u ∈ ts, u.target ≠ .bin b) → s.part.AtWork →
    let p := s.part
    let r := p.bin b
    let page := (t.ref.map RunRef.page).getD 0
    let a := p.path.account
    let laid : Bin :=
      { state := if r.state = .assigned then .filling else r.state
        set := { r.set with
          inboundSheets := r.set.inboundSheets - 1, inboundMicrons := r.set.inboundMicrons - t.caliper
          disordered := r.set.disordered || r.set.pages.any fun q => page < q
          pages := r.set.pages ++ [page], stack := r.set.stack + t.caliper } }
    let rests (bin : Bin) (jobs : JobTable) (conv : Conveyor) (runs : RunCtl) : State :=
      { s with part := { p.setBin b bin with
        ctl := p.unidled.ctl
        jobs := jobs, runs := runs, conv := conv
        path := { p.path with
          tickets := ts ++ us, account := { a with inFlight := a.inFlight - 1, inBins := a.inBins + 1 } } } }
    let settles : RunCtl → State := rests laid p.jobs p.conv
    (∀ ref, t.ref = some ref → (∀ q ∈ p.runs.finishing, ∃ u ∈ ts ++ us, u.ref.map RunRef.run = some q.id) →
      let told (q : Run) : Run := if q.id = ref.run then { q with deposited := q.deposited + 1 } else q
      let runs : RunCtl := { p.runs with current := p.runs.current.map told, finishing := p.runs.finishing.map told }
      let jobs : JobTable :=
        if r.state = .assigned then
          { p.jobs with jobs := p.jobs.jobs.map fun j =>
              if r.set.job = some j.number then { j with tallies := { j.tallies with voided := j.tallies.voided + 1 } } else j }
        else p.jobs
      (r.set.void = false → exec (.deposit b) s = .next (settles runs)) ∧
      (r.set.void = true → 2 ≤ r.set.inboundSheets → exec (.deposit b) s = .next (rests laid jobs p.conv runs)) ∧
      (r.set.void = true → r.set.inboundSheets ≤ 1 →
        exec (.deposit b) s =
          .next (rests
            { state := .ejectWait
              set := { laid.set with plan := some { stitches := 0, h := 0, clinch := 0, wire := 0, reason := none } } }
            jobs { p.conv with queue := p.conv.queue ++ [{ bin := b, placeable := none }] } runs))) ∧
    (∀ ref q, t.ref = some ref → r.set.void = false → p.runs.finishing = [q] → q.id = ref.run →
      (∀ x ∈ p.runs.current, x.id ≠ ref.run) →
      (∀ u ∈ ts ++ us, u.ref.map RunRef.run ≠ some q.id) →
      (∀ j, p.job? q.job = some j → j.state ≠ .closing ∧ j.state ≠ .cancelling) →
      exec (.deposit b) s =
        .next ((settles { p.runs with finishing := [] }).queued
          [.runDone q.id q.job q.page q.selected.length (q.deposited + 1) q.purged q.lost q.unprinted]))

/-- R50: an arrival in the purge tray is counted and matched to the oldest ticket for the tray, whatever its reason; its run is
told the copy and the reason. -/
def Obligations.PurgeArrivalSettlesTheSheet : Prop :=
  ∀ (s : State) (t : Ticket) (reason : PurgeReason) (ts us : List Ticket), s.part.Settled →
    s.part.ctl.mode = .automatic → s.part.path.stopped = false → s.part.path.tickets = ts ++ t :: us →
    t.target = .purge reason → (∀ u ∈ ts, ∃ b, u.target = .bin b) → s.part.AtWork →
    (∀ q ∈ s.part.runs.finishing, ∃ u ∈ ts ++ us, u.ref.map RunRef.run = some q.id) →
    let p := s.part
    let a := p.path.account
    let settles (runs : RunCtl) : Prop :=
      exec .purgeArrival s = .next { s with part := { p.unidled with
        runs := runs
        path := { p.path with
          purgeCount := min 65535 (p.path.purgeCount + 1)
          tickets := ts ++ us, account := { a with inFlight := a.inFlight - 1, purged := a.purged + 1 } } } }
    (t.ref = none → settles p.runs) ∧
    (∀ ref, t.ref = some ref →
      let told (q : Run) : Run := if q.id = ref.run then { q with purged := q.purged ++ [(ref.copy, reason)] } else q
      settles { p.runs with current := p.runs.current.map told, finishing := p.runs.finishing.map told })

/-- R39, R40, R45, R48 to R53, R136, R146 to R148, R54, R55: the recoverable faults of the sort path and of a slow transport,
outside SERVICE: the fault is recorded, a door cycle owed by its kind, and SERVICE entered with the tickets lost: their runs told,
their reservations released, and FAULT_NOTE, MODE_NOW, PATH_LOSS and each RUN_DONE queued in that order. -/
def Obligations.PathFaultsEnterService : Prop :=
  ∀ (s : State) (b : Nat), s.part.Settled → 1 ≤ b ∧ b ≤ 48 →
    let p := s.part
    let a := p.path.account
    let stopped : Account := { a with entered := a.entered + 1, lost := a.lost + 1 }
    let told (c : Instr) (k : FaultKind) (loc : Location) (job : Option Nat) (a : Account) (u : Nat) (plain : Prop) : Prop :=
      let e : FaultEntry := { kind := k, location := loc, job := job, mode := p.ctl.mode }
      ∃ t, exec c s = .next t ∧ EntersService s t a ∧ RecordsFault s t e ∧
        (t.part.ctl.doorCycle =
          if k ∈ [FaultKind.pathJam, .pathOverrun, .sensorMismatch, .purgeFull] then .owed else p.ctl.doorCycle) ∧
        (plain → LosesPlainly s → LosesTickets s t u
          [.faultNote e (if p.faults.first = none then .first else .counted),
            .modeNow .service (some p.ctl.mode) .fault (some k) p.ctl.doorOpen p.ctl.keyOn])
    let enters (c : Instr) (k : FaultKind) (loc : Location) (job : Option Nat) : Prop :=
      told c k loc job a p.path.unticketed True
    let stops (k : FaultKind) (job : Option Nat) (plain : Prop) : Prop :=
      told .entry k .none job stopped (p.path.unticketed + 1) plain
    (p.ctl.mode = .automatic → p.path.stopped = false →
      (∀ x xs, p.path.tickets = x :: xs →
        (∀ c, x.target = .bin c → enters .ticketDeadline .pathJam (.bin c) (x.ref.map RunRef.job)) ∧
        (∀ r, x.target = .purge r → enters .ticketDeadline .pathJam .none (x.ref.map RunRef.job))) ∧
      (5 ≤ p.path.tickets.length → stops .pathOverrun none True) ∧
      (p.path.tickets.length < 5 → p.path.purgeFull = true →
        (p.runs.current = none → stops .purgeFull none (hasCondition p.faults.attention .straySheet = true)) ∧
        (∀ r, p.runs.current = some r → r.state = .draining → stops .purgeFull (some r.job) True) ∧
        (∀ r j e, p.runs.current = some r → p.job? r.job = some j →
          j.bins[r.selected.getD r.assigned 0 - 1]? = some e →
          let set := (p.bin e.bin).set
          (r.page ∈ set.pages ∨ (∃ x ∈ p.path.tickets, x.target = .bin e.bin ∧ x.ref.map RunRef.page = some r.page) ∨
            (p.bin e.bin).state ∉ [BinState.assigned, .filling] ∨ 60 < set.pages.length + set.inboundSheets + 1 ∨
            7000 < set.stack + set.inboundMicrons + r.caliper.getD 0) →
          stops .purgeFull (some r.job) True)) ∧
      ((∀ x ∈ p.path.tickets, x.target ≠ .bin b) → enters (.deposit b) .sensorMismatch (.bin b) (p.bin b).set.job) ∧
      ((∀ x ∈ p.path.tickets, ∃ c, x.target = .bin c) → enters .purgeArrival .sensorMismatch .none none)) ∧
    (p.ctl.mode = .parked ∨ p.ctl.mode = .waking → p.path.stopped = false →
      stops .earlySheet none True ∧
      enters (.deposit b) .sensorMismatch (.bin b) (p.bin b).set.job ∧
      enters .purgeArrival .sensorMismatch .none none) ∧
    (p.ctl.mode = .waking → p.ctl.wakingDeadline.isSome = true → enters .wakingDeadline .transportSlow .none none)

/-- R52, R104, R132, R138, R151: the level sensors whose events move nothing: the level, the purge tray count, the door cycle,
and SLIP_LOW's flag outside STARTING. -/
def Obligations.LevelEventsAreNoted : Prop :=
  ∀ s : State, Busy 1 s → s.part.ctl.mode ≠ .halted →
    let p := s.part
    let l := p.lines
    (exec .purgeFullOn s = .next { s with part := { p with
      lines := { l with purgeFull := true }, path := { p.path with purgeFull := true } } }) ∧
    (exec .purgeFullOff s = .next { s with part := { p with
      lines := { l with purgeFull := false }, path := { p.path with purgeFull := false, purgeCount := 0 } } }) ∧
    (∀ on, exec (.slipOut on) s = .next { s with part := { p with
      lines := { l with slipOut := on }, conv := { p.conv with slipOut := on } } }) ∧
    (let low (on : Bool) : State :=
      { s with part := { p with lines := { l with slipLow := on }, conv := { p.conv with slipLow := on } } }
     exec (.slipLow false) s = .next (low false) ∧
     (p.ctl.mode = .starting → exec (.slipLow true) s = .next (low true)) ∧
     (p.ctl.mode ≠ .starting → exec (.slipLow true) s = .next ((low true).latched .slipLow))) ∧
    (exec .doorClosed s = .next { s with part := { p with
      lines := { l with doorOpen := false }
      ctl := { p.ctl with
        doorOpen := false, doorCycle := if p.ctl.doorCycle = .opened then .none else p.ctl.doorCycle } } }) ∧
    (exec .keyOff s = .next { s with part := { p with
      lines := { l with keyOn := false }, ctl := { p.ctl with keyOn := false } } })

/-- R137, R139, R94, R114: DOOR_OPENED and KEY_ON by mode: SERVICE from the three working modes, with the tickets lost (R54, R55):
MODE_NOW, PATH_LOSS and each RUN_DONE queued in that order; the sheet lost on its way to a VOID bin lets the bin go, FREE where
it holds nothing, and else with the void plan to the tail of the eject queue (R64). In SERVICE a resume is abandoned, its homing
and its trip stopped; in STARTING the level alone. -/
def Obligations.DoorAndKeyByMode : Prop :=
  ∀ s : State, s.part.Settled →
    let p := s.part
    let cycle : DoorCycle := if p.ctl.doorCycle = .owed then .opened else p.ctl.doorCycle
    let door (t : State) : Prop := t.part.ctl.doorOpen = true ∧ t.part.ctl.keyOn = p.ctl.keyOn ∧ t.part.ctl.doorCycle = cycle
    let key (t : State) : Prop :=
      t.part.ctl.keyOn = true ∧ t.part.ctl.doorOpen = p.ctl.doorOpen ∧ t.part.ctl.doorCycle = p.ctl.doorCycle
    let abandoned (t : State) : Prop :=
      t.part.ctl.mode = .service ∧ t.part.ctl.resumeFlag = false ∧ t.link = s.link ∧
      (p.carriage.state = .homing → t.part.carriage =
        { p.carriage with state := .stopped, position := .unknown, target := none, deadline := none }) ∧
      (p.carriage.state ≠ .homing → t.part.carriage = p.carriage) ∧
      (p.conv.state = .carrying → t.part.conv =
        { p.conv with state := .stopped, trip := p.conv.trip.map fun r => { r with deadline := none } }) ∧
      (p.conv.state = .slip → t.part.conv =
        { p.conv with
          state := .stopped, feeder := .idle
          trip := p.conv.trip.map fun r => { r with header := some .pending, deadline := none } }) ∧
      (p.conv.state = .idle ∨ p.conv.state = .stopped → t.part.conv = p.conv)
    (p.ctl.mode = .automatic ∨ p.ctl.mode = .parked ∨ p.ctl.mode = .waking →
      (∃ t, exec .doorOpened s = .next t ∧ EntersService s t p.path.account ∧ door t ∧
        (LosesPlainly s → LosesTickets s t p.path.unticketed
          [.modeNow .service (some p.ctl.mode) .door none true p.ctl.keyOn]) ∧
        (∀ x b, p.path.tickets = [x] → x.target = .bin b → 1 ≤ b ∧ b ≤ 48 → (p.bin b).set.void = true →
          (p.bin b).set.inboundSheets ≤ 1 → p.runs.finishing = [] →
          let set := (p.bin b).set
          ((p.bin b).set.pages ≠ [] →
            t.part.bin b =
              { state := .ejectWait
                set := { set with
                  inboundSheets := 0, inboundMicrons := set.inboundMicrons - x.caliper
                  plan := some { stitches := 0, h := 0, clinch := 0, wire := 0, reason := none } } } ∧
            t.part.conv.queue = p.conv.queue ++ [{ bin := b, placeable := none }] ∧ t.part.jobs = p.jobs) ∧
          ((p.bin b).set.pages = [] → p.jobs.queue = [] →
            (∀ j ∈ p.jobs.jobs, set.job = some j.number → j.state = .finishing ∨ j.state = .cancelling →
              ∃ e ∈ j.bins, e.released = false ∧ e.bin ≠ b) →
            t.part.bin b = { state := .free, set := {} } ∧ t.part.conv.queue = p.conv.queue ∧
            t.part.jobs = { p.jobs with
              jobs := p.jobs.jobs.map fun j =>
                if set.job = some j.number then
                  { j with
                    bins := j.bins.map fun e => if e.bin = b then { e with released := true } else e
                    tallies := { j.tallies with empty := j.tallies.empty + 1 } }
                else j }))) ∧
      (∃ t, exec .keyOn s = .next t ∧ EntersService s t p.path.account ∧ key t ∧
        (LosesPlainly s → LosesTickets s t p.path.unticketed
          [.modeNow .service (some p.ctl.mode) .key none p.ctl.doorOpen true]))) ∧
    (p.ctl.mode = .service →
      (∃ t, exec .doorOpened s = .next t ∧ abandoned t ∧ door t) ∧ (∃ t, exec .keyOn s = .next t ∧ abandoned t ∧ key t)) ∧
    (p.ctl.mode = .starting →
      exec .doorOpened s = .next { s with part := { p with
        lines := { p.lines with doorOpen := true }, ctl := { p.ctl with doorOpen := true, doorCycle := cycle } } } ∧
      exec .keyOn s = .next { s with part := { p with
        lines := { p.lines with keyOn := true }, ctl := { p.ctl with keyOn := true } } })

/-- R140 to R142: TRANSPORT_READY ends a waking, and parks where a park is pending and nothing is in hand; the idle timer's
expiry parks; elsewhere both are ignored. -/
def Obligations.WakingAndIdlingEnd : Prop :=
  ∀ s : State, Busy 2 s →
    let p := s.part
    let c := p.ctl
    let modeNow (m before : Mode) (cause : ModeCause) : Notice := .modeNow m (some before) cause none c.doorOpen c.keyOn
    let automatic : ModeCtl := { c with mode := .automatic, wakingDeadline := none, idleTimer := none }
    (c.mode = .waking → p.carriage.queue = [] → p.conv.queue = [] →
      (¬ p.IdleCond →
        exec .transportReady s =
          .next ({ s with part := { p with ctl := automatic } }.queued [modeNow .automatic .waking .transportReady])) ∧
      (p.IdleCond → c.parkPending = true →
        exec .transportReady s =
          .next ({ s with part := { p with
              ctl := { automatic with mode := .parked, parkPending := false }
              path := { p.path with gate := .released } } }.queued
            [modeNow .automatic .waking .transportReady, modeNow .parked .automatic .park])) ∧
      (p.IdleCond → c.parkPending = false → c.idleTimer = none → c.idleTime ≠ 0 →
        exec .transportReady s =
          .next ({ s with part := { p with
              ctl := { automatic with idleTimer := some (p.now + 1000 * c.idleTime) } } }.queued
            [modeNow .automatic .waking .transportReady]))) ∧
    (∀ t, c.mode = .automatic → c.idleTimer = some t →
      exec .idleTimerExpiry s =
        .next ({ s with part := { p with
            now := max p.now t
            ctl := { c with mode := .parked, parkPending := false, idleTimer := none }
            path := { p.path with gate := .released } } }.queued [modeNow .parked .automatic .idleTime])) ∧
    (c.mode ≠ .waking → exec .transportReady s = .next s) ∧
    (c.mode ≠ .automatic ∨ c.idleTimer = none → exec .idleTimerExpiry s = .next s)

/-! ## The stitching carriage -/

/-- R90 to R92: at its bin the carriage starts a stitch cycle where the wire left is enough, and STITCH_DONE short of the plan
starts the next: the stitch is counted, its wire taken, the deadline set. R91: where the wire left is less, the set goes back to
the head of its class and the carriage is IDLE at the bin. R88 to R90: the take check, here as TRANSPORT_READY makes it in WAKING:
the first entry of the stitch queue whose remaining need the wire meets is taken, the carriage travels to its bin or starts its
cycle there; where the wire meets none, every entry of an UNSTITCHED job is re-planned with NO_WIRE and joins the eject queue. The deadlines
stand on the model's clock (notes/assumptions/3.md). -/
def Obligations.AStitchCycleStarts : Prop :=
  ∀ (s : State) (b : Nat) (occ : Occupancy), s.part.Settled → s.part.ctl.mode ≠ .halted → 1 ≤ b ∧ b ≤ 48 →
    let p := s.part
    let r := p.bin b
    let one := 12 + (r.set.planned).h
    let need (c : Nat) : Nat :=
      (p.bin c).set.planned.wire - (p.bin c).set.made * (12 + (p.bin c).set.planned.h)
    let arrives : Prop := p.carriage.state = .travelling ∧ p.carriage.target = some (.bin b)
    let continues : Prop :=
      p.carriage.state = .stitching ∧ (∃ h, p.carriage.held = some h ∧ h.bin = b) ∧ r.set.made < r.set.planned.stitches ∧
        p.ctl.mode ≠ .service
    (one ≤ p.carriage.wire →
      let starts (c : Instr) (l : Lines) : Prop :=
        ∃ t, exec c s = .next t ∧ t.pending = s.pending ∧
          t.part = { p.setBin b { r with set := { r.set with made := r.set.made + 1 } } with
            lines := l
            ctl := p.unidled.ctl
            carriage := { p.carriage with
              state := .stitching, position := .bin b, target := none, deadline := some (p.now + 800)
              wire := p.carriage.wire - one }
            faults := p.faults.sameRecord t.part.faults }
      (arrives → starts (.carriageAt b occ) { p.lines with occ := occ }) ∧ (continues → starts .stitchDone p.lines)) ∧
    (∀ us ns, p.carriage.wire < one → hasCondition p.faults.attention .wireOut = true → p.carriage.queue = us ++ ns →
      (∀ c ∈ us, p.priorityOf c = .urgent) → (∀ c ∈ ns, p.priorityOf c = .normal) →
      (p.ctl.mode = .automatic → ∀ c ∈ b :: p.carriage.queue, p.carriage.wire < need c ∧ p.wireRuleOf c = .wait) →
      let returns (c : Instr) (l : Lines) : Prop :=
        exec c s = .next { s with part := { p.setBin b { r with state := .stitchWait } with
          lines := l
          ctl := p.unidled.ctl
          carriage := { p.carriage with
            state := .idle, position := .bin b, held := none, target := none, deadline := none
            queue := if p.priorityOf b = .urgent then b :: (us ++ ns) else us ++ b :: ns } } }
      (arrives → returns (.carriageAt b occ) { p.lines with occ := occ }) ∧ (continues → returns .stitchDone p.lines)) ∧
    (Busy 1 s → p.ctl.mode = .waking → p.carriage.state = .idle → p.conv.state ≠ .idle →
      let c := p.ctl
      let readies (q : Part) : Prop :=
        exec .transportReady s =
          .next (({ s with part := { q with
            ctl := { c with mode := .automatic, wakingDeadline := none, idleTimer := none } } } : State).queued
          [.modeNow .automatic (some .waking) .transportReady none c.doorOpen c.keyOn])
      (∀ pre post, p.carriage.queue = pre ++ b :: post → (∀ d ∈ pre, p.carriage.wire < need d) → need b ≤ p.carriage.wire →
        let taken : Carriage := { p.carriage with
          queue := p.carriage.queue.filter fun d => d ≠ b
          held := some { bin := b, cond := .taken } }
        (p.carriage.position ≠ .bin b →
          readies { (p.setBin b { r with state := .stitching }) with
            carriage := { taken with state := .travelling, target := some (.bin b), deadline := some (p.now + 3000) } }) ∧
        (p.carriage.position = .bin b → one ≤ p.carriage.wire → hasCondition p.faults.attention .wireLow = true →
          hasCondition p.faults.attention .wireOut = true →
          readies { p.setBin b { state := .stitching, set := { r.set with made := r.set.made + 1 } } with
            carriage := { taken with
              state := .stitching, target := none, deadline := some (p.now + 800), wire := p.carriage.wire - one } })) ∧
      (p.carriage.queue.Nodup → (∀ d ∈ p.carriage.queue, (1 ≤ d ∧ d ≤ 48) ∧ p.carriage.wire < need d) →
        let given := p.carriage.queue.filter fun d => p.wireRuleOf d = .unstitched
        ∃ t : Part,
          readies { p with
            bins := t.bins
            carriage := { p.carriage with queue := p.carriage.queue.filter fun d => p.wireRuleOf d ≠ .unstitched }
            conv := { p.conv with queue :=
              p.conv.queue ++ given.map fun d => ({ bin := d, placeable := none } : EjectEntry) } } ∧
          (∀ d ∈ given,
            let set := (p.bin d).set
            t.bin d =
              { state := .ejectWait
                set := { set with
                  plan := some
                    { stitches := 0, h := if set.made = 0 then 0 else set.planned.h
                      clinch := if set.made = 0 then 0 else set.planned.clinch, wire := 0, reason := some .noWire } } }) ∧
          ∀ d, d ∉ given → t.bin d = p.bin d))

/-- R92, R97, R100: STITCH_DONE at the plan's last stitch hands the set on to the tail of the eject queue and leaves the carriage
IDLE at the bin; short of the plan in SERVICE it interrupts the set; outside STITCHING it is ignored. -/
def Obligations.StitchDoneEndsTheSet : Prop :=
  ∀ (s : State) (h : Held), s.part.Settled → s.part.carriage.held = some h → 1 ≤ h.bin ∧ h.bin ≤ 48 →
    s.part.ctl.mode ≠ .halted → s.part.ctl.mode ≠ .parked →
    (s.part.ctl.mode = .automatic → s.part.carriage.queue = [] ∧ s.part.conv.state ≠ .idle) →
    let p := s.part
    let set := (p.bin h.bin).set
    (p.carriage.state = .stitching → set.planned.stitches ≤ set.made →
      exec .stitchDone s = .next { s with part := { p.setBin h.bin { state := .ejectWait, set := set } with
        ctl := p.unidled.ctl
        carriage := { p.carriage with
          state := .idle, position := .bin h.bin, held := none, target := none, deadline := none }
        conv := { p.conv with queue := p.conv.queue ++ [{ bin := h.bin, placeable := none }] } } }) ∧
    (p.carriage.state = .stitching → set.made < set.planned.stitches → p.ctl.mode = .service →
      exec .stitchDone s = .next { s with part := { p with carriage := { p.carriage with
        state := .stopped, position := .bin h.bin, target := none, deadline := none
        held := some { bin := h.bin, cond := .interrupted } } } }) ∧
    (p.carriage.state ≠ .stitching → exec .stitchDone s = .next s)

/-- R93, R138, R146, R148: the expiry of a stitch cycle's deadline, with an empty fault record and nothing in flight: the stitch
is not counted, the carriage stops holding a jammed set, and the mode is SERVICE. That the expiry moves the model's clock on to the
deadline is the model's choice (notes/assumptions/3.md). -/
def Obligations.AStitchJamStopsTheCarriage : Prop :=
  ∀ (s : State) (h : Held) (d : Nat), Busy 2 s → s.part.carriage.state = .stitching → s.part.carriage.held = some h →
    s.part.carriage.deadline = some d → 1 ≤ h.bin ∧ h.bin ≤ 48 → s.part.faults.first = none →
    let p := s.part
    let r := p.bin h.bin
    let e : FaultEntry := { kind := .stitchJam, location := .bin h.bin, job := r.set.job, mode := p.ctl.mode }
    let jams (ctl : ModeCtl) (path : SortPath) : State :=
      { s with part := { p.setBin h.bin { r with set := { r.set with made := r.set.made - 1 } } with
        now := max p.now d
        ctl := ctl, path := path
        carriage := { p.carriage with
          state := .stopped, position := .bin h.bin, target := none, deadline := none
          held := some { bin := h.bin, cond := .jammed } }
        faults := { p.faults with first := some e } } }
    (p.ctl.mode = .service →
      exec .stitchCycleDeadline s =
        .next ((jams { p.ctl with resumeFlag := false } p.path).queued [.faultNote e .first])) ∧
    (p.ctl.mode = .automatic → p.path.tickets = [] → p.path.unticketed = 0 → p.runs.finishing = [] →
      p.conv.state = .idle ∨ p.conv.state = .stopped →
      exec .stitchCycleDeadline s =
        .next ((jams { p.ctl with mode := .service, parkPending := false, idleTimer := none, wakingDeadline := none }
            { p.path with stopped := false, gate := .released }).queued
          [.faultNote e .first, .modeNow .service (some .automatic) .fault (some .stitchJam) p.ctl.doorOpen p.ctl.keyOn]))

/-- R94, R135, R139: CARRIAGE_HOME ends STARTING in AUTOMATIC, or in SERVICE with the door open or the key on, and completes a
resume; without one the carriage stands at home; outside HOMING and TRAVELLING it is ignored. R68, R96, R104, R151: at the end of
STARTING the ORPHAN bins join the eject queue in ascending order, and WIRE_LOW and SLIP_LOW are latched where their levels are
present; in AUTOMATIC the first ORPHAN set then goes to the overflow tray, or all are held by a tray that was found occupied
(R102 to R104, R109, R111). The end of STARTING follows notes/assumptions/29.md; times stand on the model's clock
(notes/assumptions/3.md). -/
def Obligations.CarriageHomeEndsHoming : Prop :=
  ∀ (s : State) (occ : Occupancy), Busy 4 s →
    s.part.carriage.queue = [] → s.part.conv.queue = [] → s.part.path.tickets = [] → s.part.path.unticketed = 0 →
    s.part.runs.finishing = [] → s.part.conv.state = .idle ∨ s.part.conv.state = .stopped →
    let p := s.part
    let orphans := (List.range' 1 48).filter fun b => (p.bin b).state = .orphan
    let entry (b : Nat) : EjectEntry := { bin := b, placeable := none }
    let lows (t : State) : State :=
      let t := if p.carriage.wire < 5000 then t.latched .wireLow else t
      if p.conv.slipLow = true then t.latched .slipLow else t
    let c := p.ctl
    let home (ctl : ModeCtl) (path : SortPath) : State :=
      { s with part := { p with
        lines := { p.lines with occ := occ }, ctl := ctl, path := path
        carriage := { p.carriage with state := .idle, position := .home, target := none, deadline := none } } }
    let modeNow (m before : Mode) (cause : ModeCause) : Notice := .modeNow m (some before) cause none c.doorOpen c.keyOn
    let automatic (t : State) : State := lows (t.queued [modeNow .automatic .starting .started])
    (p.carriage.state = .homing → c.mode = .starting → c.doorOpen = false → c.keyOn = false → p.runs.current = none →
      p.runs.pending = none → p.conv.state = .idle → c.parkPending = false → c.idleTimer = none → c.idleTime ≠ 0 →
      orphans = [] →
      exec (.carriageHome occ) s =
        .next (automatic (home { c with mode := .automatic, idleTimer := some (p.now + 1000 * c.idleTime) } p.path))) ∧
    (∀ b bs, p.carriage.state = .homing → c.mode = .starting → c.doorOpen = false → c.keyOn = false → p.conv.state = .idle →
      orphans = b :: bs →
      (∀ d ∈ orphans, (p.bin d).set =
        { void := true, plan := some { stitches := 0, h := 0, clinch := 0, wire := 0, reason := none } }) →
      p.conv.tray.groups = [] →
      let h := home { c with mode := .automatic, idleTimer := none } p.path
      (p.conv.tray.heldFull = true →
        exec (.carriageHome occ) s =
          .next ((automatic { h with part := { h.part with conv := { p.conv with
            queue := orphans.map fun d => { bin := d, placeable := some false } } } }).latched .overflowFull)) ∧
      (p.conv.tray.heldFull = false → p.conv.tray.sets + 1 ≤ 80 → p.conv.tray.stack + 150 ≤ 120000 →
        let goes (st : ConvState) (f : FeederState) (header : Header) (time : Nat) : State :=
          automatic { h with part := { (h.part.setBin b { p.bin b with state := .ejecting }) with
            conv := { p.conv with
              queue := bs.map entry, state := st, feeder := f
              trip := some
                { bin := b, job := none, copy := none, dest := none, void := true, sheets := 0, stack := 0, stitches := 0
                  made := 0, reason := none, h := 0, place := .overflow, header := some header, emptied := false
                  proving := false, deadline := some (p.now + time) } } } }
        (p.conv.slipOut = false → exec (.carriageHome occ) s = .next (goes .slip .feeding .pending 1000)) ∧
        (p.conv.slipOut = true →
          exec (.carriageHome occ) s = .next ((goes .carrying p.conv.feeder .unmarked 5000).latched .slipEmpty)))) ∧
    (p.carriage.state = .homing → c.mode = .starting → c.doorOpen = true ∨ c.keyOn = true →
      let h := home { c with mode := .service, parkPending := false, idleTimer := none, wakingDeadline := none }
        { p.path with stopped := false, gate := .released }
      exec (.carriageHome occ) s =
        .next (lows (({ h with part := { h.part with conv := { p.conv with queue := orphans.map entry } } } : State).queued
          [modeNow .service .starting .started]))) ∧
    (p.carriage.state = .homing → c.mode = .service → c.resumeFlag = true → p.runs.current.isSome = true →
      exec (.carriageHome occ) s =
        .next ((home { c with mode := .automatic, resumeFlag := false, idleTimer := none } p.path).queued
          [modeNow .automatic .service .resumed])) ∧
    (p.carriage.state = .homing → c.mode = .service → c.resumeFlag = false →
      exec (.carriageHome occ) s = .next (home c p.path)) ∧
    (p.carriage.state ≠ .homing → p.carriage.state ≠ .travelling →
      exec (.carriageHome occ) s = .next (s.withOccupancy occ))

/-! ## The return conveyor -/

/-- R104, R105: a slip fed, or not fed in its time, ends the slip step: the header, the tray's stack, SLIP_EMPTY, the carry, the
sheet account; in another state both are ignored. That the expiry of the slip feed deadline moves the model's clock on to it, and
that the carry's deadline is counted from there, is the model's choice (notes/assumptions/3.md). -/
def Obligations.SlipStepEnds : Prop :=
  ∀ (s : State) (t : Trip), Busy 1 s → s.part.ctl.mode ≠ .halted → s.part.conv.trip = some t →
    let p := s.part
    let a := p.path.account
    let carries (now : Nat) (h : Header) (tray : Tray) : State :=
      { s with part := { p with
        now := now
        path := { p.path with account := { a with
          inBins := a.inBins - BitVec.ofNat 32 t.sheets, inReturn := a.inReturn + BitVec.ofNat 32 t.sheets } }
        conv := { p.conv with
          state := .carrying, feeder := .idle, tray := tray
          trip := some { t with header := some h, deadline := some (now + 5000) } } } }
    (p.conv.state = .slip →
      exec .slipFed s = .next (carries p.now .marked { p.conv.tray with stack := p.conv.tray.stack + 150 }) ∧
      ∀ d, t.deadline = some d →
        exec .slipFeedDeadline s = .next ((carries (max p.now d) .unmarked p.conv.tray).latched .slipEmpty)) ∧
    (p.conv.state ≠ .slip → exec .slipFed s = .next s ∧ exec .slipFeedDeadline s = .next s)

/-- R106, R69, R2, R7, R8: BIN_EMPTIED of the trip's bin: the trip is emptied, the bin FREE, its job's entry released, and the
grant check made. With no job waiting for bins, or with a head that needs more than are then FREE, that is all. A head that
needs no more is granted its bins, with JOB_READY; here no job behind it is granted too. Of any other bin it is ignored. -/
def Obligations.BinEmptiedFreesTheBin : Prop :=
  ∀ (s : State) (b : Nat) (t : Trip), s.part.Settled → s.part.ctl.mode ≠ .halted → 1 ≤ b ∧ b ≤ 48 →
    s.part.conv.trip = some t →
    let p := s.part
    let l := p.lines.clearBin b
    let freed := p.setBin b { state := .free, set := {} }
    let released (j : Job) : Job :=
      if t.job = some j.number then
        { j with bins := j.bins.map fun e => if e.bin = b then { e with released := true } else e }
      else j
    let empties (u : Part) : State :=
      { s with part := { freed with
        lines := l
        ctl := p.unidled.ctl
        conv := { p.conv with trip := some { t with emptied := true } }
        bins := u.bins
        jobs := u.jobs } }
    (p.conv.state = .carrying → t.bin = b → t.emptied = false → t.job = (p.bin b).set.job →
      let plain : State := empties { freed with jobs := { p.jobs with jobs := p.jobs.jobs.map released } }
      (p.jobs.queue = [] → exec (.binEmptied b) s = .next plain) ∧
      (∀ (n : Nat) (rest : List Nat) (k : Job), p.jobs.queue = n :: rest → p.job? n = some k →
        (freed.freeBins.length < k.copies → exec (.binEmptied b) s = .next plain) ∧
        (Busy 1 s → k.copies ≤ freed.freeBins.length →
          (∀ m g, rest.head? = some m → p.job? m = some g → freed.freeBins.length < k.copies + g.copies) →
          ∃ (u : Part) (bins : List Nat), freed.GrantTakes k.copies bins ∧
            exec (.binEmptied b) s = .next ((empties u).queued [.jobReady n k.copies bins]) ∧
            u.jobs =
              { jobs := p.jobs.jobs.map fun j =>
                  if j.number = n then
                    { j with state := .active, bins := bins.map fun c => { bin := c, released := false } }
                  else released j
                queue := rest } ∧
            (∀ i c, bins[i]? = some c → u.bin c = { state := .assigned, set := { job := some n, copy := some (i + 1) } }) ∧
            (∀ c, c ∉ bins → u.bin c = freed.bin c)))) ∧
    (p.conv.state ≠ .carrying ∨ t.bin ≠ b ∨ t.emptied = true →
      exec (.binEmptied b) s = .next { s with part := { p with lines := l } })

/-- R107, R124, R112, R3, R17, R19: a delivery to a drawer whose job goes on, or ends with it: the drawer's count and stack, its
recency, the account, the tallies, SET_PLACED, and JOB_DONE, COMPLETED or CANCELLED, at the end of the job. -/
def Obligations.ArrivalAtTheDrawer : Prop :=
  ∀ (s : State) (t : Trip) (j : Job) (d : Nat) (q : Pile), Busy 2 s → s.part.ctl.mode ≠ .halted →
    s.part.ctl.mode ≠ .starting → s.part.conv.state = .carrying → s.part.conv.trip = some t → t.emptied = true →
    t.place = .drawer d → 1 ≤ d ∧ d ≤ 20 → (s.part.drawers.drawer d).pile = some q → t.job = some j.number →
    s.part.job? j.number = some j → (s.part.ctl.mode = .automatic → s.part.conv.queue = []) →
    s.part.runs.current.isSome = true →
    let p := s.part
    let m := p.drawers
    let a := p.path.account
    let outcome : SetOutcome :=
      if t.void = true then .void else match t.reason with | some r => .unstitched r | none => .stitched
    let tallies : Tallies := j.tallies.addArrival outcome (.drawer d)
    let placed : Notice := .setPlaced
      { job := t.job, copy := t.copy, bin := t.bin, dest := t.dest, place := .drawer d, void := t.void, outcome := outcome
        made := t.made, h := t.h, sheets := t.sheets, header := none }
    let arrives (jobs : List Job) (ns : List Notice) : Prop :=
      ∃ k : DrawerMap,
        exec (.arrival (.drawer d)) s =
          .next ({ s with part := { p.unidled with
            jobs := { p.jobs with jobs := jobs }
            drawers := k
            path := { p.path with account := { a with
              inReturn := a.inReturn - BitVec.ofNat 32 t.sheets, placed := a.placed + BitVec.ofNat 32 t.sheets } }
            conv := { p.conv with state := .idle, trip := none } } }.queued ns) ∧
        k.drawer d = { m.drawer d with
          pile := some { count := q.count + 1, stack := q.stack + t.stack }, awaited := false } ∧
        (∀ e, e ≠ d → k.drawer e = m.drawer e) ∧ k.nv = m.nv ∧
        (d ≤ 16 → k.marker ((d - 1) / 2) = (if d % 2 = 1 then .one else .two) ∧ k.tree = m.tree ∧
          ∀ r, r ≠ (d - 1) / 2 → k.marker r = m.marker r) ∧
        (17 ≤ d → k.markers = m.markers ∧ k.tree = m.tree.use d)
    let told := p.jobs.jobs.map fun i =>
      if i.number = j.number then { i with tallies := i.tallies.addArrival outcome (.drawer d) } else i
    let started : Prop := ∃ r ∈ p.runs.current.toList ++ p.runs.finishing, r.job = j.number
    ((∃ e ∈ j.bins, e.released = false) ∨ j.state ∈ [JobState.waiting, .active, .holding, .held, .closing] ∨
        (j.state = .cancelling ∧ started) →
      arrives told [placed]) ∧
    (∀ o : JobOutcome, (∀ e ∈ j.bins, e.released = true) →
      (j.state = .finishing ∧ o = .completed) ∨ (j.state = .cancelling ∧ ¬ started ∧ o = .cancelled) →
      arrives (told.filter fun i => i.number ≠ j.number) [placed, .jobDone j.number o j.copies tallies])

/-- R107, R109, R112, R3, R17, R19: a delivery to the overflow tray: the set joins the last group, or starts a group of its own,
marked where its slip was fed; the account, SET_PLACED, and, for the set of a job, its tallies, and JOB_DONE where the job ends
with it. -/
def Obligations.ArrivalAtTheTray : Prop :=
  ∀ (s : State) (t : Trip), Busy 2 s → s.part.ctl.mode ≠ .halted → s.part.ctl.mode ≠ .starting →
    s.part.conv.state = .carrying → s.part.conv.trip = some t → t.emptied = true → t.place = .overflow →
    (s.part.ctl.mode = .automatic → s.part.conv.queue = []) → s.part.runs.current.isSome = true →
    let p := s.part
    let a := p.path.account
    let tray := p.conv.tray
    let outcome : SetOutcome :=
      if t.void = true then .void else match t.reason with | some r => .unstitched r | none => .stitched
    let lays (jobs : List Job) (ns : List Notice) (groups : List Group) : Prop :=
      exec (.arrival .overflow) s =
        .next ({ s with part := { p.unidled with
          jobs := { p.jobs with jobs := jobs }
          path := { p.path with account := { a with
            inReturn := a.inReturn - BitVec.ofNat 32 t.sheets, placed := a.placed + BitVec.ofNat 32 t.sheets } }
          conv := { p.conv with
            state := .idle, trip := none
            tray := { tray with sets := tray.sets + 1, stack := tray.stack + t.stack, groups := groups } } } }.queued
          (.setPlaced
            { job := t.job, copy := t.copy, bin := t.bin, dest := t.dest, place := .overflow, void := t.void
              outcome := outcome, made := t.made, h := t.h, sheets := t.sheets, header := t.header } :: ns))
    let arrives (groups : List Group) : Prop :=
      (t.job = none → lays p.jobs.jobs [] groups) ∧
      (∀ j : Job, t.job = some j.number → p.job? j.number = some j →
        let told := p.jobs.jobs.map fun i =>
          if i.number = j.number then { i with tallies := i.tallies.addArrival outcome .overflow } else i
        let started : Prop := ∃ r ∈ p.runs.current.toList ++ p.runs.finishing, r.job = j.number
        ((∃ e ∈ j.bins, e.released = false) ∨ j.state ∈ [JobState.waiting, .active, .holding, .held, .closing] ∨
            (j.state = .cancelling ∧ started) →
          lays told [] groups) ∧
        (∀ o : JobOutcome, (∀ e ∈ j.bins, e.released = true) →
          (j.state = .finishing ∧ o = .completed) ∨ (j.state = .cancelling ∧ ¬ started ∧ o = .cancelled) →
          lays (told.filter fun i => i.number ≠ j.number)
            [.jobDone j.number o j.copies (j.tallies.addArrival outcome .overflow)] groups))
    (∀ gs g, t.header = some .joins → tray.groups = gs ++ [g] → arrives (gs ++ [{ g with count := g.count + 1 }])) ∧
    (t.header = some .marked → arrives (tray.groups ++ [{ key := t.dest, count := 1, marked := true }])) ∧
    (t.header = some .unmarked → arrives (tray.groups ++ [{ key := t.dest, count := 1, marked := false }]))

/-- R107, R108, R113, R114, R136, R146, R147: a carry that passes its deadline and an arrival that matches no delivery are faults:
in AUTOMATIC, PARKED and WAKING they enter SERVICE with the trip kept; in SERVICE they are recorded, stop the conveyor and abandon
a resume. A proving carry whose bin is not emptied stalls so too; one whose bin is emptied ends with its set reported lost: the
sheets are removed, the trip is gone, and its job may end. The expiry of a deadline moves the model's clock on
(notes/assumptions/3.md). -/
def Obligations.ConveyorFaultsEnterService : Prop :=
  ∀ (s : State) (pl : Place), s.part.Settled → pl = .overflow ∨ (∃ d, pl = .drawer d ∧ 1 ≤ d ∧ d ≤ 20) →
    let p := s.part
    let locate : Place → Location := fun x => match x with | .drawer d => .drawer d | .overflow => .none
    let stopped : Conveyor :=
      match p.conv.state with
      | .carrying => { p.conv with state := .stopped, trip := p.conv.trip.map fun r => { r with deadline := none } }
      | .slip =>
        { p.conv with
          state := .stopped, feeder := .idle
          trip := p.conv.trip.map fun r => { r with header := some .pending, deadline := none } }
      | .idle | .stopped => p.conv
    let raises (c : Instr) (k : FaultKind) (loc : Location) (job : Option Nat) (now : Nat) : Prop :=
      let e : FaultEntry := { kind := k, location := loc, job := job, mode := p.ctl.mode }
      let cycle : DoorCycle := if k = .sensorMismatch then .owed else p.ctl.doorCycle
      (p.ctl.mode = .automatic ∨ p.ctl.mode = .parked ∨ p.ctl.mode = .waking →
        ∃ t, exec c s = .next t ∧ EntersService s t p.path.account ∧ RecordsFault s t e ∧ t.part.ctl.doorCycle = cycle) ∧
      (p.ctl.mode = .service → Busy 1 s →
        exec c s = .next ({ s with part := { p with
            now := now
            ctl := { p.ctl with resumeFlag := false, doorCycle := cycle }
            conv := stopped
            faults := if p.faults.first = none then { p.faults with first := some e }
              else { p.faults with later := min 255 (p.faults.later + 1) } } }.queued
          [.faultNote e (if p.faults.first = none then .first else .counted)]))
    (∀ t, p.conv.state = .carrying → p.conv.trip = some t →
      (∀ d, t.deadline = some d → t.proving = false ∨ t.emptied = false →
        raises .carryDeadline .conveyorStall (if t.emptied = true then locate t.place else .bin t.bin) t.job (max p.now d)) ∧
      (pl = t.place → t.emptied = false → raises (.arrival pl) .sensorMismatch (.bin t.bin) t.job p.now) ∧
      (pl ≠ t.place → raises (.arrival pl) .sensorMismatch (locate pl) t.job p.now) ∧
      (∀ d, t.deadline = some d → t.proving = true → t.emptied = true → Busy 2 s → p.ctl.mode ≠ .halted →
        (p.ctl.mode = .automatic → p.conv.queue = [] ∧ p.runs.current.isSome = true) →
        let a := p.path.account
        let lost : Notice := .setPlaced
          { job := t.job, copy := t.copy, bin := t.bin, dest := t.dest, place := .lostInReturn, void := t.void
            outcome := if t.void = true then .void else match t.reason with | some r => .unstitched r | none => .stitched
            made := t.made, h := t.h, sheets := t.sheets, header := none }
        let loses (jobs : List Job) (ns : List Notice) : Prop :=
          ∃ k : DrawerMap,
            exec .carryDeadline s =
              .next ({ s with part := { p.unidled with
                now := max p.now d
                jobs := { p.jobs with jobs := jobs }
                drawers := k
                path := { p.path with account := { a with
                  inReturn := a.inReturn - BitVec.ofNat 32 t.sheets, removed := a.removed + BitVec.ofNat 32 t.sheets } }
                conv := { p.conv with state := .idle, trip := none } } }.queued (lost :: ns)) ∧
            (∀ x, t.place = .drawer x → 1 ≤ x ∧ x ≤ 20 →
              k.drawer x = { p.drawers.drawer x with awaited := false }) ∧
            (∀ x, t.place ≠ .drawer x → k.drawer x = p.drawers.drawer x) ∧
            k.nv = p.drawers.nv ∧ k.markers = p.drawers.markers ∧ k.tree = p.drawers.tree
        (t.job = none → loses p.jobs.jobs []) ∧
        (∀ j : Job, t.job = some j.number → p.job? j.number = some j →
          (j.state ∈ [JobState.waiting, .active, .holding, .held, .closing] ∨ (∃ e ∈ j.bins, e.released = false) →
            loses p.jobs.jobs []) ∧
          (∀ o : JobOutcome, (∀ e ∈ j.bins, e.released = true) →
            (j.state = .finishing ∧ o = .completed) ∨ (j.state = .cancelling ∧ o = .cancelled ∧
              ∀ r ∈ p.runs.current.toList ++ p.runs.finishing, r.job ≠ j.number) →
            loses (p.jobs.jobs.filter fun i => i.number ≠ j.number) [.jobDone j.number o j.copies j.tallies])))) ∧
    (p.conv.state = .slip → raises (.arrival pl) .sensorMismatch (locate pl) none p.now) ∧
    (p.conv.state = .idle → p.ctl.mode ≠ .service → raises (.arrival pl) .sensorMismatch (locate pl) none p.now)

/-- R110, R111: the emptied tray holds nothing, and a trip on its way to it will start a fresh group; no set is held for lack of
room, so that no other record changes. -/
def Obligations.OverflowEmptiedClearsTheTray : Prop :=
  ∀ s : State, s.part.Settled → s.part.ctl.mode ≠ .halted → s.part.AtWork →
    (∀ e ∈ s.part.conv.queue, e.placeable ≠ some false) →
    let p := s.part
    exec .overflowEmptied s = .next { s with part := { p.unidled with
      lines := { p.lines with occ := { p.lines.occ with overflow := false } }
      conv := { p.conv with
        tray := { sets := 0, stack := 0, heldFull := false, groups := [] }
        trip := p.conv.trip.map fun t => { t with header := t.header.map fun h =>
          if h = .joins ∨ h = .marked then .unmarked else h } } } }

/-- R92, R102 to R105, R120, R123: in AUTOMATIC, with the conveyor IDLE and nothing queued, a finished set for a destination
whose OPEN drawer can take it goes on its trip at once: its bin EJECTING, the drawer awaited, its sheets in return. R102 to R104,
R111, R80: a set whose resolution ends at the tray, or which is void, goes to the overflow tray where the tray has room: here as
TRANSPORT_READY makes the choice check in WAKING. Its header JOINS the last group, or the slip is fed, or it goes UNMARKED with
SLIP_EMPTY latched. Entries ahead of it that have neither drawer nor room are held, and a first held entry latches
OVERFLOW_FULL. -/
def Obligations.AFinishedSetIsEjectedToItsDrawer : Prop :=
  ∀ s : State, s.part.Settled →
    let p := s.part
    let a := p.path.account
    (∀ (h : Held) (j : Job) (d : Nat) (q : Pile), p.ctl.mode = .automatic →
      p.carriage.state = .stitching → p.carriage.held = some h → 1 ≤ h.bin ∧ h.bin ≤ 48 →
      (p.bin h.bin).set.planned.stitches ≤ (p.bin h.bin).set.made → (p.bin h.bin).set.void = false →
      (p.bin h.bin).set.job = some j.number → p.job? j.number = some j →
      p.carriage.queue = [] → p.conv.queue = [] → p.conv.state = .idle →
      1 ≤ d ∧ d ≤ 20 → (p.drawers.drawer d).state = .open → (p.drawers.drawer d).dest = some j.dest →
      (∀ e, 1 ≤ e ∧ e ≤ 20 → e ≠ d → (p.drawers.drawer e).state = .open → (p.drawers.drawer e).dest ≠ some j.dest) →
      (p.drawers.drawer d).pile = some q → q.count + 1 ≤ 20 → q.stack + (p.bin h.bin).set.stack ≤ 40000 →
      let set := (p.bin h.bin).set
      let m := BitVec.ofNat 32 set.pages.length
      ∃ k : DrawerMap,
        exec .stitchDone s = .next { s with part := { p.setBin h.bin { state := .ejecting, set := set } with
          ctl := { p.ctl with idleTimer := none }
          carriage := { p.carriage with
            state := .idle, position := .bin h.bin, held := none, target := none, deadline := none }
          path := { p.path with account := { a with inBins := a.inBins - m, inReturn := a.inReturn + m } }
          drawers := k
          conv := { p.conv with
            state := .carrying
            trip := some
              { bin := h.bin, job := some j.number, copy := set.copy, dest := some j.dest, void := false
                sheets := set.pages.length, stack := set.stack, stitches := set.planned.stitches, made := set.made
                reason := set.planned.reason, h := set.planned.h, place := .drawer d, header := none, emptied := false
                proving := false, deadline := some (p.now + 5000) } } } } ∧
        k.drawer d = { p.drawers.drawer d with awaited := true } ∧ (∀ e, e ≠ d → k.drawer e = p.drawers.drawer e) ∧
        k.nv = p.drawers.nv ∧ k.markers = p.drawers.markers ∧ k.tree = p.drawers.tree) ∧
    (let dest (b : Nat) : Option Nat :=
      if (p.bin b).set.void = true then none else ((p.bin b).set.job.bind p.job?).map Job.dest
     let needed (b : Nat) : Bool := p.conv.tray.groups.getLast?.map Group.key != some (dest b)
     let noDrawer (b : Nat) : Prop :=
      ∀ x, dest b = some x → (p.drawers.resolve x (p.bin b).set.stack).place = .overflow
     let room (b : Nat) : Prop :=
      p.conv.tray.heldFull = false ∧ p.conv.tray.sets + 1 ≤ 80 ∧
        p.conv.tray.stack + (p.bin b).set.stack + (if needed b = true then 150 else 0) ≤ 120000
     let readies (q : Part) (ns : List Notice) : State :=
      ({ s with part := { q with
        ctl := { p.ctl with mode := .automatic, wakingDeadline := none, idleTimer := none } } } : State).queued
        (.modeNow .automatic (some .waking) .transportReady none p.ctl.doorOpen p.ctl.keyOn :: ns)
     Busy 3 s → p.ctl.mode = .waking → p.carriage.state ≠ .idle → p.conv.state = .idle →
      (∀ (pre post : List EjectEntry) (e : EjectEntry), p.conv.queue = pre ++ e :: post →
        ((pre ++ e :: post).map EjectEntry.bin).Nodup → (∀ x ∈ pre, noDrawer x.bin ∧ ¬ room x.bin) →
        (pre = [] ∨ hasCondition p.faults.attention .overflowFull = true) → noDrawer e.bin → room e.bin →
        1 ≤ e.bin ∧ e.bin ≤ 48 →
        let set := (p.bin e.bin).set
        let resolved : Option Resolution := (dest e.bin).map fun x => p.drawers.resolve x set.stack
        let goes (st : ConvState) (f : FeederState) (h : Header) (time : Nat) (b : Account) : State :=
          readies { (p.setBin e.bin { state := .ejecting, set := set }) with
            path := { p.path with account := b }
            drawers := (resolved.map Resolution.map).getD p.drawers
            conv := { p.conv with
              queue := (pre.map fun x => { x with placeable := some false }) ++ post
              state := st, feeder := f
              trip := some
                { bin := e.bin, job := set.job, copy := set.copy, dest := dest e.bin, void := set.void
                  sheets := set.pages.length, stack := set.stack, stitches := set.planned.stitches, made := set.made
                  reason := set.planned.reason, h := set.planned.h, place := .overflow, header := some h, emptied := false
                  proving := false, deadline := some (p.now + time) } } }
          (((resolved.map Resolution.changes).getD []).map .drawerChanged)
        let carries (h : Header) : State :=
          goes .carrying p.conv.feeder h 5000 { a with
            inBins := a.inBins - BitVec.ofNat 32 set.pages.length, inReturn := a.inReturn + BitVec.ofNat 32 set.pages.length }
        (needed e.bin = false → exec .transportReady s = .next (carries .joins)) ∧
        (needed e.bin = true → p.conv.slipOut = true →
          exec .transportReady s = .next ((carries .unmarked).latched .slipEmpty)) ∧
        (needed e.bin = true → p.conv.slipOut = false →
          exec .transportReady s = .next (goes .slip .feeding .pending 1000 a))) ∧
      (∀ e : EjectEntry, p.conv.queue = [e] → noDrawer e.bin → ¬ room e.bin →
        let holds : State := readies { p with conv := { p.conv with queue := [{ e with placeable := some false }] } } []
        (e.placeable = some false → exec .transportReady s = .next holds) ∧
        (e.placeable ≠ some false → exec .transportReady s = .next (holds.latched .overflowFull))))

/-! ## The drawer map -/

/-- R125, R119, R129: COLLECTED by the drawer's state, lock and awaited flag. A locked FULL drawer becomes OPEN, and the other
OPEN drawer of its destination, where there is one, is closed. -/
def Obligations.CollectedByDrawerState : Prop :=
  ∀ (s : State) (d : Nat), Busy 1 s → s.part.ctl.mode ≠ .halted → 1 ≤ d ∧ d ≤ 20 → s.part.AtWork →
    let p := s.part
    let m := p.drawers
    let r := m.drawer d
    let zero : Option Pile := some { count := 0, stack := 0 }
    let collects (after : Drawer) (nv : NvCopy) (ns : List Notice) : Prop :=
      ∃ k : DrawerMap,
        exec (.collected d) s =
          .next ({ s with part := { p.unidled with lines := p.lines.clearDrawer d, drawers := k } }.queued ns) ∧
        k.drawer d = after ∧ k.nvOf d = nv ∧ (∀ e, e ≠ d → k.drawer e = m.drawer e ∧ k.nvOf e = m.nvOf e) ∧
        k.markers = m.markers ∧ k.tree = m.tree
    let notice (dest : Option Nat) (st : DrawerState) : Notice := .drawerChanged
      { drawer := d, dest := dest, before := r.dest, state := st, locked := r.locked, pile := zero, cause := .collected }
    let gone : Prop :=
      collects { r with dest := none, state := .unassigned, pile := zero } { dest := none, locked := r.locked }
        [notice none .unassigned]
    let otherOpen : Prop := ∃ e, 1 ≤ e ∧ e ≤ 20 ∧ (m.drawer e).state = .open ∧ (m.drawer e).dest = some (r.dest.getD 0)
    (r.state = .unassigned ∨ r.state = .open → collects { r with pile := zero } (m.nvOf d) []) ∧
    (r.state = .full → ¬ otherOpen → collects { r with state := .open, pile := zero } (m.nvOf d) [notice r.dest .open]) ∧
    (r.state = .full → r.locked = false → otherOpen → gone) ∧
    (∀ e, Busy 2 s → r.state = .full → r.locked = true → r.dest.isSome = true → 1 ≤ e ∧ e ≤ 20 →
      (∀ c, 1 ≤ c ∧ c ≤ 20 → ((m.drawer c).state = .open ∧ (m.drawer c).dest = r.dest ↔ c = e)) →
      let x := m.drawer e
      let idle : Prop := x.pile.map Pile.count = some 0 ∧ x.awaited = false
      ∃ k : DrawerMap,
        exec (.collected d) s =
          .next ({ s with part := { p.unidled with lines := p.lines.clearDrawer d, drawers := k } }.queued
            [notice r.dest .open, .drawerChanged
              { drawer := e, dest := (k.drawer e).dest, before := r.dest, state := (k.drawer e).state, locked := x.locked
                pile := x.pile, cause := .closed }]) ∧
        k.drawer d = { r with state := .open, pile := zero } ∧ k.nvOf d = m.nvOf d ∧
        (idle → k.drawer e = { x with dest := none, state := .unassigned } ∧ k.nvOf e = { dest := none, locked := x.locked }) ∧
        (¬ idle → k.drawer e = { x with state := .closing } ∧ k.nvOf e = m.nvOf e) ∧
        (∀ c, c ≠ d → c ≠ e → k.drawer c = m.drawer c ∧ k.nvOf c = m.nvOf c) ∧ k.markers = m.markers ∧ k.tree = m.tree) ∧
    (r.state = .closing → r.awaited = true → collects { r with pile := zero } (m.nvOf d) []) ∧
    (r.state = .closing → r.awaited = false → gone)

/-- R120 to R122: the resolution of a destination. Its OPEN drawer takes the set if it accepts it (R79); one that does not is
made FULL. Then a drawer is allocated: of the destination's row, a vacant way, way 1 before way 2, else an empty OPEN way of
another destination, the less recently used where both are; else of the unlocked flexible drawers, the lowest vacant one, else
the empty OPEN one of another destination that the tree chooses. The drawer allocated is OPEN for the destination and used
(R117). Where there is none the resolution ends at the overflow tray. Its notices are of the drawer made FULL and of the drawer
allocated, in this order. The first clause holds of every map, the others where the destination has at most one OPEN drawer
(R116). -/
def Obligations.ResolutionEndsAtAnOpenDrawer : Prop :=
  ∀ (m : DrawerMap) (dest t : Nat),
    let row := dest % 8
    let isOpen (c : Nat) : Prop := 1 ≤ c ∧ c ≤ 20 ∧ (m.drawer c).state = .open ∧ (m.drawer c).dest = some dest
    let accepts (c : Nat) : Prop := ∃ q, (m.drawer c).pile = some q ∧ q.count + 1 ≤ 20 ∧ q.stack + t ≤ 40000
    let vacant (c : Nat) : Prop := (m.drawer c).state = .unassigned ∧ (m.drawer c).pile.isSome = true
    let takable (c : Nat) : Prop :=
      (m.drawer c).state = .open ∧ (m.drawer c).dest ≠ some dest ∧ (m.drawer c).pile.map Pile.count = some 0
    let way1 := 2 * row + 1
    let way2 := 2 * row + 2
    let fromRow (d : Nat) : Prop :=
      (d = way1 ∧ vacant way1) ∨ (d = way2 ∧ vacant way2 ∧ ¬ vacant way1) ∨
      (¬ vacant way1 ∧ ¬ vacant way2 ∧
        ((d = way1 ∧ takable way1 ∧ (takable way2 → m.marker row = .two)) ∨
         (d = way2 ∧ takable way2 ∧ (takable way1 → m.marker row = .one))))
    let rowGives : Prop := vacant way1 ∨ vacant way2 ∨ takable way1 ∨ takable way2
    let unlocked (c : Nat) : Prop := 17 ≤ c ∧ c ≤ 20 ∧ (m.drawer c).locked = false
    let named (c : Nat) : Prop :=
      c = if c ≤ 18 then (if m.tree.second17 = true then 18 else 17) else (if m.tree.second19 = true then 20 else 19)
    let samePair (c d : Nat) : Prop := (19 ≤ c ↔ 19 ≤ d)
    let fromFlexible (d : Nat) : Prop :=
      (unlocked d ∧ vacant d ∧ ∀ c, unlocked c → vacant c → d ≤ c) ∨
      ((∀ c, unlocked c → ¬ vacant c) ∧ unlocked d ∧ takable d ∧
        (∀ c, unlocked c → takable c → ¬ samePair c d → (m.tree.upperPair = true ↔ 19 ≤ d)) ∧
        (∀ c, unlocked c → takable c → samePair c d → c ≠ d → named d))
    let flexibleGives : Prop := ∃ c, unlocked c ∧ (vacant c ∨ takable c)
    let allocates (full : Option Nat) : Prop :=
      let stands (c : Nat) : Drawer := if full = some c then { m.drawer c with state := .full } else m.drawer c
      let notice (c : Nat) (before : Option Nat) (st : DrawerState) (cause : DrawerCause) : DrawerChange :=
        { drawer := c, dest := some dest, before := before, state := st, locked := (m.drawer c).locked
          pile := (m.drawer c).pile, cause := cause }
      let fulls : List DrawerChange := full.toList.map fun c => notice c (some dest) .full .full
      (∀ d, fromRow d ∨ (¬ rowGives ∧ fromFlexible d) →
        ∃ k : DrawerMap,
          m.resolve dest t =
            { map := k, changes := fulls ++ [notice d (m.drawer d).dest .open .allocated], place := .drawer d } ∧
          k.drawer d = { m.drawer d with dest := some dest, state := .open } ∧
          k.nvOf d = { dest := some dest, locked := (m.drawer d).locked } ∧
          (∀ c, c ≠ d → k.drawer c = stands c ∧ k.nvOf c = m.nvOf c) ∧
          (d ≤ 16 → k.tree = m.tree ∧ k.marker row = (if d = way1 then .one else .two) ∧
            ∀ r, r ≠ row → k.marker r = m.marker r) ∧
          (17 ≤ d → k.markers = m.markers ∧
            k.tree =
              { upperPair := decide (d ≤ 18), second17 := if d ≤ 18 then decide (d = 17) else m.tree.second17
                second19 := if d ≤ 18 then m.tree.second19 else decide (d = 19) })) ∧
      (¬ rowGives → ¬ flexibleGives →
        ∃ k : DrawerMap, m.resolve dest t = { map := k, changes := fulls, place := .overflow } ∧
          (∀ c, k.drawer c = stands c) ∧ k.nv = m.nv ∧ k.markers = m.markers ∧ k.tree = m.tree)
    (∀ d, (m.resolve dest t).place = .drawer d →
      let k := (m.resolve dest t).map
      1 ≤ d ∧ d ≤ 20 ∧ (k.drawer d).state = .open ∧ (k.drawer d).dest = some dest ∧ (k.drawer d).pile.isSome = true ∧
      (isOpen d → k = m ∧ accepts d) ∧ (¬ isOpen d → d = way1 ∨ d = way2 ∨ unlocked d) ∧
      (¬ isOpen d → vacant d ∨ takable d)) ∧
    (∀ f, (∀ c, isOpen c ↔ c = f) → accepts f → m.resolve dest t = { map := m, changes := [], place := .drawer f }) ∧
    (∀ f, (∀ c, isOpen c ↔ c = f) → ¬ accepts f → allocates (some f)) ∧
    ((∀ c, ¬ isOpen c) → allocates none)

/-! ## Stack arithmetic -/

/-- R81 to R84: the plan of a set of `m` sheets and stack `t`: the first reason that applies, else the pattern's stitches with
their leg length, clinch class and wire. -/
def Obligations.StitchPlansFollowTheRules : Prop :=
  ∀ (m t : Nat) (foreign disordered : Bool) (pattern : Pattern) (rule : DisorderRule),
    let plan := stitchPlan m t foreign disordered pattern rule
    let unstitched (r : Reason) : Prop := plan = { stitches := 0, h := 0, clinch := 0, wire := 0, reason := some r }
    let fits : Prop := foreign = false ∧ m ≠ 1 ∧ pattern ≠ .none ∧ (disordered = false ∨ rule = .stitch)
    (foreign = true → unstitched .foreign) ∧
    (foreign = false → m = 1 → unstitched .singleSheet) ∧
    (foreign = false → m ≠ 1 → pattern = .none → unstitched .patternNone) ∧
    (foreign = false → m ≠ 1 → pattern ≠ .none → disordered = true → rule = .leave → unstitched .disordered) ∧
    (fits → 50 < m ∨ 5500 < t → unstitched .overCapacity) ∧
    (fits → m ≤ 50 → t ≤ 5500 →
      plan.reason = none ∧ plan.stitches = (if pattern = .edge2 then 2 else 1) ∧ 8 ≤ plan.h ∧ plan.h ≤ 16 ∧
      (8 < plan.h → 500 * (plan.h - 1) < t + 2500) ∧ t + 2500 ≤ 500 * plan.h ∧
      plan.wire = plan.stitches * (12 + plan.h) ∧
      plan.clinch = (if t ≤ 1000 then 1 else if t ≤ 2500 then 2 else if t ≤ 4000 then 3 else 4))

/-! ## Invariants of every step -/

/-- R154, R155, R158: the bounds of the press link. -/
def Obligations.EveryStepKeepsTheLinkBounds : Prop :=
  ∀ s t : State, LinkOk s → step s = .next t → LinkOk t

/-- R56: the sheet account balances. -/
def Obligations.EveryStepBalancesTheSheets : Prop :=
  ∀ s t : State, SheetsAccounted s → step s = .next t → SheetsAccounted t

/-- R132, R139 to R142: the flags and timers of the mode controller run in their modes alone. R74, R87, R141, R147, R50: stored
values stay in their ranges. -/
def Obligations.EveryStepKeepsModesAndRanges : Prop :=
  ∀ s t : State, step s = .next t → (ModeOk s → ModeOk t) ∧ (RangesOk s → RangesOk t)

/-- R21: the PENDING slot is occupied only while the CURRENT slot is, and each run's state follows its place. -/
def Obligations.EveryStepKeepsTheSlots : Prop :=
  ∀ s t : State, SlotsOk s → step s = .next t → SlotsOk t

/-- The machine after reset meets every invariant. -/
def Obligations.ResetMeetsTheInvariants : Prop :=
  LinkOk State.reset ∧ SheetsAccounted State.reset ∧ ModeOk State.reset ∧ RangesOk State.reset ∧ SlotsOk State.reset
end

