-- ==== Sys2Proof/Laws/State.lean ====
section
/-! SUPPORT. Reading a field after an update of the part: one lemma for each field and each named update, and reading one bin, one stock
entry or one drawer after a write of it. -/

namespace Sys2Proof.Machine

@[simp] theorem Part.raise_now (p : Part) (n : Notice) : (p.raise n).now = p.now := rfl
@[simp] theorem Part.raise_lines (p : Part) (n : Notice) : (p.raise n).lines = p.lines := rfl
@[simp] theorem Part.raise_ctl (p : Part) (n : Notice) : (p.raise n).ctl = p.ctl := rfl
@[simp] theorem Part.raise_jobs (p : Part) (n : Notice) : (p.raise n).jobs = p.jobs := rfl
@[simp] theorem Part.raise_runs (p : Part) (n : Notice) : (p.raise n).runs = p.runs := rfl
@[simp] theorem Part.raise_path (p : Part) (n : Notice) : (p.raise n).path = p.path := rfl
@[simp] theorem Part.raise_bins (p : Part) (n : Notice) : (p.raise n).bins = p.bins := rfl
@[simp] theorem Part.raise_stock (p : Part) (n : Notice) : (p.raise n).stock = p.stock := rfl
@[simp] theorem Part.raise_carriage (p : Part) (n : Notice) : (p.raise n).carriage = p.carriage := rfl
@[simp] theorem Part.raise_conv (p : Part) (n : Notice) : (p.raise n).conv = p.conv := rfl
@[simp] theorem Part.raise_drawers (p : Part) (n : Notice) : (p.raise n).drawers = p.drawers := rfl
@[simp] theorem Part.raise_faults (p : Part) (n : Notice) : (p.raise n).faults = p.faults := rfl

@[simp] theorem Part.reach_lines (p : Part) (t : Nat) : (p.reach t).lines = p.lines := rfl
@[simp] theorem Part.reach_ctl (p : Part) (t : Nat) : (p.reach t).ctl = p.ctl := rfl
@[simp] theorem Part.reach_jobs (p : Part) (t : Nat) : (p.reach t).jobs = p.jobs := rfl
@[simp] theorem Part.reach_runs (p : Part) (t : Nat) : (p.reach t).runs = p.runs := rfl
@[simp] theorem Part.reach_path (p : Part) (t : Nat) : (p.reach t).path = p.path := rfl
@[simp] theorem Part.reach_bins (p : Part) (t : Nat) : (p.reach t).bins = p.bins := rfl
@[simp] theorem Part.reach_stock (p : Part) (t : Nat) : (p.reach t).stock = p.stock := rfl
@[simp] theorem Part.reach_carriage (p : Part) (t : Nat) : (p.reach t).carriage = p.carriage := rfl
@[simp] theorem Part.reach_conv (p : Part) (t : Nat) : (p.reach t).conv = p.conv := rfl
@[simp] theorem Part.reach_drawers (p : Part) (t : Nat) : (p.reach t).drawers = p.drawers := rfl
@[simp] theorem Part.reach_faults (p : Part) (t : Nat) : (p.reach t).faults = p.faults := rfl
@[simp] theorem Part.reach_out (p : Part) (t : Nat) : (p.reach t).out = p.out := rfl

@[simp] theorem Part.setBin_now (p : Part) (b : Nat) (r : Bin) : (p.setBin b r).now = p.now := by unfold Part.setBin; split <;> rfl
@[simp] theorem Part.setBin_lines (p : Part) (b : Nat) (r : Bin) : (p.setBin b r).lines = p.lines := by unfold Part.setBin; split <;> rfl
@[simp] theorem Part.setBin_ctl (p : Part) (b : Nat) (r : Bin) : (p.setBin b r).ctl = p.ctl := by unfold Part.setBin; split <;> rfl
@[simp] theorem Part.setBin_jobs (p : Part) (b : Nat) (r : Bin) : (p.setBin b r).jobs = p.jobs := by unfold Part.setBin; split <;> rfl
@[simp] theorem Part.setBin_runs (p : Part) (b : Nat) (r : Bin) : (p.setBin b r).runs = p.runs := by unfold Part.setBin; split <;> rfl
@[simp] theorem Part.setBin_path (p : Part) (b : Nat) (r : Bin) : (p.setBin b r).path = p.path := by unfold Part.setBin; split <;> rfl
@[simp] theorem Part.setBin_stock (p : Part) (b : Nat) (r : Bin) : (p.setBin b r).stock = p.stock := by unfold Part.setBin; split <;> rfl
@[simp] theorem Part.setBin_carriage (p : Part) (b : Nat) (r : Bin) : (p.setBin b r).carriage = p.carriage := by unfold Part.setBin; split <;> rfl
@[simp] theorem Part.setBin_conv (p : Part) (b : Nat) (r : Bin) : (p.setBin b r).conv = p.conv := by unfold Part.setBin; split <;> rfl
@[simp] theorem Part.setBin_drawers (p : Part) (b : Nat) (r : Bin) : (p.setBin b r).drawers = p.drawers := by unfold Part.setBin; split <;> rfl
@[simp] theorem Part.setBin_faults (p : Part) (b : Nat) (r : Bin) : (p.setBin b r).faults = p.faults := by unfold Part.setBin; split <;> rfl
@[simp] theorem Part.setBin_out (p : Part) (b : Nat) (r : Bin) : (p.setBin b r).out = p.out := by unfold Part.setBin; split <;> rfl

@[simp] theorem Part.modSet_now (p : Part) (b : Nat) (g : SetRecord → SetRecord) : (p.modSet b g).now = p.now := by simp [Part.modSet]
@[simp] theorem Part.modSet_lines (p : Part) (b : Nat) (g : SetRecord → SetRecord) : (p.modSet b g).lines = p.lines := by simp [Part.modSet]
@[simp] theorem Part.modSet_ctl (p : Part) (b : Nat) (g : SetRecord → SetRecord) : (p.modSet b g).ctl = p.ctl := by simp [Part.modSet]
@[simp] theorem Part.modSet_jobs (p : Part) (b : Nat) (g : SetRecord → SetRecord) : (p.modSet b g).jobs = p.jobs := by simp [Part.modSet]
@[simp] theorem Part.modSet_runs (p : Part) (b : Nat) (g : SetRecord → SetRecord) : (p.modSet b g).runs = p.runs := by simp [Part.modSet]
@[simp] theorem Part.modSet_path (p : Part) (b : Nat) (g : SetRecord → SetRecord) : (p.modSet b g).path = p.path := by simp [Part.modSet]
@[simp] theorem Part.modSet_stock (p : Part) (b : Nat) (g : SetRecord → SetRecord) : (p.modSet b g).stock = p.stock := by simp [Part.modSet]
@[simp] theorem Part.modSet_carriage (p : Part) (b : Nat) (g : SetRecord → SetRecord) : (p.modSet b g).carriage = p.carriage := by simp [Part.modSet]
@[simp] theorem Part.modSet_conv (p : Part) (b : Nat) (g : SetRecord → SetRecord) : (p.modSet b g).conv = p.conv := by simp [Part.modSet]
@[simp] theorem Part.modSet_drawers (p : Part) (b : Nat) (g : SetRecord → SetRecord) : (p.modSet b g).drawers = p.drawers := by simp [Part.modSet]
@[simp] theorem Part.modSet_faults (p : Part) (b : Nat) (g : SetRecord → SetRecord) : (p.modSet b g).faults = p.faults := by simp [Part.modSet]
@[simp] theorem Part.modSet_out (p : Part) (b : Nat) (g : SetRecord → SetRecord) : (p.modSet b g).out = p.out := by simp [Part.modSet]

@[simp] theorem Part.setBinState_now (p : Part) (b : Nat) (st : BinState) : (p.setBinState b st).now = p.now := by simp [Part.setBinState]
@[simp] theorem Part.setBinState_lines (p : Part) (b : Nat) (st : BinState) : (p.setBinState b st).lines = p.lines := by simp [Part.setBinState]
@[simp] theorem Part.setBinState_ctl (p : Part) (b : Nat) (st : BinState) : (p.setBinState b st).ctl = p.ctl := by simp [Part.setBinState]
@[simp] theorem Part.setBinState_jobs (p : Part) (b : Nat) (st : BinState) : (p.setBinState b st).jobs = p.jobs := by simp [Part.setBinState]
@[simp] theorem Part.setBinState_runs (p : Part) (b : Nat) (st : BinState) : (p.setBinState b st).runs = p.runs := by simp [Part.setBinState]
@[simp] theorem Part.setBinState_path (p : Part) (b : Nat) (st : BinState) : (p.setBinState b st).path = p.path := by simp [Part.setBinState]
@[simp] theorem Part.setBinState_stock (p : Part) (b : Nat) (st : BinState) : (p.setBinState b st).stock = p.stock := by simp [Part.setBinState]
@[simp] theorem Part.setBinState_carriage (p : Part) (b : Nat) (st : BinState) : (p.setBinState b st).carriage = p.carriage := by simp [Part.setBinState]
@[simp] theorem Part.setBinState_conv (p : Part) (b : Nat) (st : BinState) : (p.setBinState b st).conv = p.conv := by simp [Part.setBinState]
@[simp] theorem Part.setBinState_drawers (p : Part) (b : Nat) (st : BinState) : (p.setBinState b st).drawers = p.drawers := by simp [Part.setBinState]
@[simp] theorem Part.setBinState_faults (p : Part) (b : Nat) (st : BinState) : (p.setBinState b st).faults = p.faults := by simp [Part.setBinState]
@[simp] theorem Part.setBinState_out (p : Part) (b : Nat) (st : BinState) : (p.setBinState b st).out = p.out := by simp [Part.setBinState]

@[simp] theorem Part.sample_now (p : Part) (occ : Occupancy) : (p.sample occ).now = p.now := rfl
@[simp] theorem Part.sample_ctl (p : Part) (occ : Occupancy) : (p.sample occ).ctl = p.ctl := rfl
@[simp] theorem Part.sample_jobs (p : Part) (occ : Occupancy) : (p.sample occ).jobs = p.jobs := rfl
@[simp] theorem Part.sample_runs (p : Part) (occ : Occupancy) : (p.sample occ).runs = p.runs := rfl
@[simp] theorem Part.sample_path (p : Part) (occ : Occupancy) : (p.sample occ).path = p.path := rfl
@[simp] theorem Part.sample_bins (p : Part) (occ : Occupancy) : (p.sample occ).bins = p.bins := rfl
@[simp] theorem Part.sample_stock (p : Part) (occ : Occupancy) : (p.sample occ).stock = p.stock := rfl
@[simp] theorem Part.sample_carriage (p : Part) (occ : Occupancy) : (p.sample occ).carriage = p.carriage := rfl
@[simp] theorem Part.sample_conv (p : Part) (occ : Occupancy) : (p.sample occ).conv = p.conv := rfl
@[simp] theorem Part.sample_drawers (p : Part) (occ : Occupancy) : (p.sample occ).drawers = p.drawers := rfl
@[simp] theorem Part.sample_faults (p : Part) (occ : Occupancy) : (p.sample occ).faults = p.faults := rfl
@[simp] theorem Part.sample_out (p : Part) (occ : Occupancy) : (p.sample occ).out = p.out := rfl

@[simp] theorem Part.modJob_now (p : Part) (n : Nat) (g : Job → Job) : (p.modJob n g).now = p.now := rfl
@[simp] theorem Part.modJob_lines (p : Part) (n : Nat) (g : Job → Job) : (p.modJob n g).lines = p.lines := rfl
@[simp] theorem Part.modJob_ctl (p : Part) (n : Nat) (g : Job → Job) : (p.modJob n g).ctl = p.ctl := rfl
@[simp] theorem Part.modJob_runs (p : Part) (n : Nat) (g : Job → Job) : (p.modJob n g).runs = p.runs := rfl
@[simp] theorem Part.modJob_path (p : Part) (n : Nat) (g : Job → Job) : (p.modJob n g).path = p.path := rfl
@[simp] theorem Part.modJob_bins (p : Part) (n : Nat) (g : Job → Job) : (p.modJob n g).bins = p.bins := rfl
@[simp] theorem Part.modJob_stock (p : Part) (n : Nat) (g : Job → Job) : (p.modJob n g).stock = p.stock := rfl
@[simp] theorem Part.modJob_carriage (p : Part) (n : Nat) (g : Job → Job) : (p.modJob n g).carriage = p.carriage := rfl
@[simp] theorem Part.modJob_conv (p : Part) (n : Nat) (g : Job → Job) : (p.modJob n g).conv = p.conv := rfl
@[simp] theorem Part.modJob_drawers (p : Part) (n : Nat) (g : Job → Job) : (p.modJob n g).drawers = p.drawers := rfl
@[simp] theorem Part.modJob_faults (p : Part) (n : Nat) (g : Job → Job) : (p.modJob n g).faults = p.faults := rfl
@[simp] theorem Part.modJob_out (p : Part) (n : Nat) (g : Job → Job) : (p.modJob n g).out = p.out := rfl

@[simp] theorem Part.modJobOf_now (p : Part) (n : Option Nat) (g : Job → Job) : (p.modJobOf n g).now = p.now := by cases n <;> rfl
@[simp] theorem Part.modJobOf_lines (p : Part) (n : Option Nat) (g : Job → Job) : (p.modJobOf n g).lines = p.lines := by cases n <;> rfl
@[simp] theorem Part.modJobOf_ctl (p : Part) (n : Option Nat) (g : Job → Job) : (p.modJobOf n g).ctl = p.ctl := by cases n <;> rfl
@[simp] theorem Part.modJobOf_runs (p : Part) (n : Option Nat) (g : Job → Job) : (p.modJobOf n g).runs = p.runs := by cases n <;> rfl
@[simp] theorem Part.modJobOf_path (p : Part) (n : Option Nat) (g : Job → Job) : (p.modJobOf n g).path = p.path := by cases n <;> rfl
@[simp] theorem Part.modJobOf_bins (p : Part) (n : Option Nat) (g : Job → Job) : (p.modJobOf n g).bins = p.bins := by cases n <;> rfl
@[simp] theorem Part.modJobOf_stock (p : Part) (n : Option Nat) (g : Job → Job) : (p.modJobOf n g).stock = p.stock := by cases n <;> rfl
@[simp] theorem Part.modJobOf_carriage (p : Part) (n : Option Nat) (g : Job → Job) : (p.modJobOf n g).carriage = p.carriage := by cases n <;> rfl
@[simp] theorem Part.modJobOf_conv (p : Part) (n : Option Nat) (g : Job → Job) : (p.modJobOf n g).conv = p.conv := by cases n <;> rfl
@[simp] theorem Part.modJobOf_drawers (p : Part) (n : Option Nat) (g : Job → Job) : (p.modJobOf n g).drawers = p.drawers := by cases n <;> rfl
@[simp] theorem Part.modJobOf_faults (p : Part) (n : Option Nat) (g : Job → Job) : (p.modJobOf n g).faults = p.faults := by cases n <;> rfl
@[simp] theorem Part.modJobOf_out (p : Part) (n : Option Nat) (g : Job → Job) : (p.modJobOf n g).out = p.out := by cases n <;> rfl

@[simp] theorem Part.dropJob_now (p : Part) (n : Nat) : (p.dropJob n).now = p.now := rfl
@[simp] theorem Part.dropJob_lines (p : Part) (n : Nat) : (p.dropJob n).lines = p.lines := rfl
@[simp] theorem Part.dropJob_ctl (p : Part) (n : Nat) : (p.dropJob n).ctl = p.ctl := rfl
@[simp] theorem Part.dropJob_runs (p : Part) (n : Nat) : (p.dropJob n).runs = p.runs := rfl
@[simp] theorem Part.dropJob_path (p : Part) (n : Nat) : (p.dropJob n).path = p.path := rfl
@[simp] theorem Part.dropJob_bins (p : Part) (n : Nat) : (p.dropJob n).bins = p.bins := rfl
@[simp] theorem Part.dropJob_stock (p : Part) (n : Nat) : (p.dropJob n).stock = p.stock := rfl
@[simp] theorem Part.dropJob_carriage (p : Part) (n : Nat) : (p.dropJob n).carriage = p.carriage := rfl
@[simp] theorem Part.dropJob_conv (p : Part) (n : Nat) : (p.dropJob n).conv = p.conv := rfl
@[simp] theorem Part.dropJob_drawers (p : Part) (n : Nat) : (p.dropJob n).drawers = p.drawers := rfl
@[simp] theorem Part.dropJob_faults (p : Part) (n : Nat) : (p.dropJob n).faults = p.faults := rfl
@[simp] theorem Part.dropJob_out (p : Part) (n : Nat) : (p.dropJob n).out = p.out := rfl

@[simp] theorem Part.setJobState_now (p : Part) (n : Nat) (st : JobState) : (p.setJobState n st).now = p.now := rfl
@[simp] theorem Part.setJobState_lines (p : Part) (n : Nat) (st : JobState) : (p.setJobState n st).lines = p.lines := rfl
@[simp] theorem Part.setJobState_ctl (p : Part) (n : Nat) (st : JobState) : (p.setJobState n st).ctl = p.ctl := rfl
@[simp] theorem Part.setJobState_runs (p : Part) (n : Nat) (st : JobState) : (p.setJobState n st).runs = p.runs := rfl
@[simp] theorem Part.setJobState_path (p : Part) (n : Nat) (st : JobState) : (p.setJobState n st).path = p.path := rfl
@[simp] theorem Part.setJobState_bins (p : Part) (n : Nat) (st : JobState) : (p.setJobState n st).bins = p.bins := rfl
@[simp] theorem Part.setJobState_stock (p : Part) (n : Nat) (st : JobState) : (p.setJobState n st).stock = p.stock := rfl
@[simp] theorem Part.setJobState_carriage (p : Part) (n : Nat) (st : JobState) : (p.setJobState n st).carriage = p.carriage := rfl
@[simp] theorem Part.setJobState_conv (p : Part) (n : Nat) (st : JobState) : (p.setJobState n st).conv = p.conv := rfl
@[simp] theorem Part.setJobState_drawers (p : Part) (n : Nat) (st : JobState) : (p.setJobState n st).drawers = p.drawers := rfl
@[simp] theorem Part.setJobState_faults (p : Part) (n : Nat) (st : JobState) : (p.setJobState n st).faults = p.faults := rfl
@[simp] theorem Part.setJobState_out (p : Part) (n : Nat) (st : JobState) : (p.setJobState n st).out = p.out := rfl

@[simp] theorem Part.modRun_now (p : Part) (i : RunId) (g : Run → Run) : (p.modRun i g).now = p.now := rfl
@[simp] theorem Part.modRun_lines (p : Part) (i : RunId) (g : Run → Run) : (p.modRun i g).lines = p.lines := rfl
@[simp] theorem Part.modRun_ctl (p : Part) (i : RunId) (g : Run → Run) : (p.modRun i g).ctl = p.ctl := rfl
@[simp] theorem Part.modRun_jobs (p : Part) (i : RunId) (g : Run → Run) : (p.modRun i g).jobs = p.jobs := rfl
@[simp] theorem Part.modRun_path (p : Part) (i : RunId) (g : Run → Run) : (p.modRun i g).path = p.path := rfl
@[simp] theorem Part.modRun_bins (p : Part) (i : RunId) (g : Run → Run) : (p.modRun i g).bins = p.bins := rfl
@[simp] theorem Part.modRun_stock (p : Part) (i : RunId) (g : Run → Run) : (p.modRun i g).stock = p.stock := rfl
@[simp] theorem Part.modRun_carriage (p : Part) (i : RunId) (g : Run → Run) : (p.modRun i g).carriage = p.carriage := rfl
@[simp] theorem Part.modRun_conv (p : Part) (i : RunId) (g : Run → Run) : (p.modRun i g).conv = p.conv := rfl
@[simp] theorem Part.modRun_drawers (p : Part) (i : RunId) (g : Run → Run) : (p.modRun i g).drawers = p.drawers := rfl
@[simp] theorem Part.modRun_faults (p : Part) (i : RunId) (g : Run → Run) : (p.modRun i g).faults = p.faults := rfl
@[simp] theorem Part.modRun_out (p : Part) (i : RunId) (g : Run → Run) : (p.modRun i g).out = p.out := rfl

@[simp] theorem Part.setStock_now (p : Part) (c : Nat) (e : StockEntry) : (p.setStock c e).now = p.now := by unfold Part.setStock; split <;> rfl
@[simp] theorem Part.setStock_lines (p : Part) (c : Nat) (e : StockEntry) : (p.setStock c e).lines = p.lines := by unfold Part.setStock; split <;> rfl
@[simp] theorem Part.setStock_ctl (p : Part) (c : Nat) (e : StockEntry) : (p.setStock c e).ctl = p.ctl := by unfold Part.setStock; split <;> rfl
@[simp] theorem Part.setStock_jobs (p : Part) (c : Nat) (e : StockEntry) : (p.setStock c e).jobs = p.jobs := by unfold Part.setStock; split <;> rfl
@[simp] theorem Part.setStock_runs (p : Part) (c : Nat) (e : StockEntry) : (p.setStock c e).runs = p.runs := by unfold Part.setStock; split <;> rfl
@[simp] theorem Part.setStock_path (p : Part) (c : Nat) (e : StockEntry) : (p.setStock c e).path = p.path := by unfold Part.setStock; split <;> rfl
@[simp] theorem Part.setStock_bins (p : Part) (c : Nat) (e : StockEntry) : (p.setStock c e).bins = p.bins := by unfold Part.setStock; split <;> rfl
@[simp] theorem Part.setStock_carriage (p : Part) (c : Nat) (e : StockEntry) : (p.setStock c e).carriage = p.carriage := by unfold Part.setStock; split <;> rfl
@[simp] theorem Part.setStock_conv (p : Part) (c : Nat) (e : StockEntry) : (p.setStock c e).conv = p.conv := by unfold Part.setStock; split <;> rfl
@[simp] theorem Part.setStock_drawers (p : Part) (c : Nat) (e : StockEntry) : (p.setStock c e).drawers = p.drawers := by unfold Part.setStock; split <;> rfl
@[simp] theorem Part.setStock_faults (p : Part) (c : Nat) (e : StockEntry) : (p.setStock c e).faults = p.faults := by unfold Part.setStock; split <;> rfl
@[simp] theorem Part.setStock_out (p : Part) (c : Nat) (e : StockEntry) : (p.setStock c e).out = p.out := by unfold Part.setStock; split <;> rfl

@[simp] theorem Part.modAccount_now (p : Part) (g : Account → Account) : (p.modAccount g).now = p.now := rfl
@[simp] theorem Part.modAccount_lines (p : Part) (g : Account → Account) : (p.modAccount g).lines = p.lines := rfl
@[simp] theorem Part.modAccount_ctl (p : Part) (g : Account → Account) : (p.modAccount g).ctl = p.ctl := rfl
@[simp] theorem Part.modAccount_jobs (p : Part) (g : Account → Account) : (p.modAccount g).jobs = p.jobs := rfl
@[simp] theorem Part.modAccount_runs (p : Part) (g : Account → Account) : (p.modAccount g).runs = p.runs := rfl
@[simp] theorem Part.modAccount_bins (p : Part) (g : Account → Account) : (p.modAccount g).bins = p.bins := rfl
@[simp] theorem Part.modAccount_stock (p : Part) (g : Account → Account) : (p.modAccount g).stock = p.stock := rfl
@[simp] theorem Part.modAccount_carriage (p : Part) (g : Account → Account) : (p.modAccount g).carriage = p.carriage := rfl
@[simp] theorem Part.modAccount_conv (p : Part) (g : Account → Account) : (p.modAccount g).conv = p.conv := rfl
@[simp] theorem Part.modAccount_drawers (p : Part) (g : Account → Account) : (p.modAccount g).drawers = p.drawers := rfl
@[simp] theorem Part.modAccount_faults (p : Part) (g : Account → Account) : (p.modAccount g).faults = p.faults := rfl
@[simp] theorem Part.modAccount_out (p : Part) (g : Account → Account) : (p.modAccount g).out = p.out := rfl

@[simp] theorem Part.enterSheet_now (p : Part) : (p.enterSheet).now = p.now := rfl
@[simp] theorem Part.enterSheet_lines (p : Part) : (p.enterSheet).lines = p.lines := rfl
@[simp] theorem Part.enterSheet_ctl (p : Part) : (p.enterSheet).ctl = p.ctl := rfl
@[simp] theorem Part.enterSheet_jobs (p : Part) : (p.enterSheet).jobs = p.jobs := rfl
@[simp] theorem Part.enterSheet_runs (p : Part) : (p.enterSheet).runs = p.runs := rfl
@[simp] theorem Part.enterSheet_bins (p : Part) : (p.enterSheet).bins = p.bins := rfl
@[simp] theorem Part.enterSheet_stock (p : Part) : (p.enterSheet).stock = p.stock := rfl
@[simp] theorem Part.enterSheet_carriage (p : Part) : (p.enterSheet).carriage = p.carriage := rfl
@[simp] theorem Part.enterSheet_conv (p : Part) : (p.enterSheet).conv = p.conv := rfl
@[simp] theorem Part.enterSheet_drawers (p : Part) : (p.enterSheet).drawers = p.drawers := rfl
@[simp] theorem Part.enterSheet_faults (p : Part) : (p.enterSheet).faults = p.faults := rfl
@[simp] theorem Part.enterSheet_out (p : Part) : (p.enterSheet).out = p.out := rfl

@[simp] theorem Part.releaseGate_now (p : Part) : (p.releaseGate).now = p.now := rfl
@[simp] theorem Part.releaseGate_lines (p : Part) : (p.releaseGate).lines = p.lines := rfl
@[simp] theorem Part.releaseGate_ctl (p : Part) : (p.releaseGate).ctl = p.ctl := rfl
@[simp] theorem Part.releaseGate_jobs (p : Part) : (p.releaseGate).jobs = p.jobs := rfl
@[simp] theorem Part.releaseGate_runs (p : Part) : (p.releaseGate).runs = p.runs := rfl
@[simp] theorem Part.releaseGate_bins (p : Part) : (p.releaseGate).bins = p.bins := rfl
@[simp] theorem Part.releaseGate_stock (p : Part) : (p.releaseGate).stock = p.stock := rfl
@[simp] theorem Part.releaseGate_carriage (p : Part) : (p.releaseGate).carriage = p.carriage := rfl
@[simp] theorem Part.releaseGate_conv (p : Part) : (p.releaseGate).conv = p.conv := rfl
@[simp] theorem Part.releaseGate_drawers (p : Part) : (p.releaseGate).drawers = p.drawers := rfl
@[simp] theorem Part.releaseGate_faults (p : Part) : (p.releaseGate).faults = p.faults := rfl
@[simp] theorem Part.releaseGate_out (p : Part) : (p.releaseGate).out = p.out := rfl

@[simp] theorem Part.modTrip_now (p : Part) (g : Trip → Trip) : (p.modTrip g).now = p.now := rfl
@[simp] theorem Part.modTrip_lines (p : Part) (g : Trip → Trip) : (p.modTrip g).lines = p.lines := rfl
@[simp] theorem Part.modTrip_ctl (p : Part) (g : Trip → Trip) : (p.modTrip g).ctl = p.ctl := rfl
@[simp] theorem Part.modTrip_jobs (p : Part) (g : Trip → Trip) : (p.modTrip g).jobs = p.jobs := rfl
@[simp] theorem Part.modTrip_runs (p : Part) (g : Trip → Trip) : (p.modTrip g).runs = p.runs := rfl
@[simp] theorem Part.modTrip_path (p : Part) (g : Trip → Trip) : (p.modTrip g).path = p.path := rfl
@[simp] theorem Part.modTrip_bins (p : Part) (g : Trip → Trip) : (p.modTrip g).bins = p.bins := rfl
@[simp] theorem Part.modTrip_stock (p : Part) (g : Trip → Trip) : (p.modTrip g).stock = p.stock := rfl
@[simp] theorem Part.modTrip_carriage (p : Part) (g : Trip → Trip) : (p.modTrip g).carriage = p.carriage := rfl
@[simp] theorem Part.modTrip_drawers (p : Part) (g : Trip → Trip) : (p.modTrip g).drawers = p.drawers := rfl
@[simp] theorem Part.modTrip_faults (p : Part) (g : Trip → Trip) : (p.modTrip g).faults = p.faults := rfl
@[simp] theorem Part.modTrip_out (p : Part) (g : Trip → Trip) : (p.modTrip g).out = p.out := rfl

@[simp] theorem Part.startIdleTimer_now (p : Part) : (p.startIdleTimer).now = p.now := rfl
@[simp] theorem Part.startIdleTimer_lines (p : Part) : (p.startIdleTimer).lines = p.lines := rfl
@[simp] theorem Part.startIdleTimer_jobs (p : Part) : (p.startIdleTimer).jobs = p.jobs := rfl
@[simp] theorem Part.startIdleTimer_runs (p : Part) : (p.startIdleTimer).runs = p.runs := rfl
@[simp] theorem Part.startIdleTimer_path (p : Part) : (p.startIdleTimer).path = p.path := rfl
@[simp] theorem Part.startIdleTimer_bins (p : Part) : (p.startIdleTimer).bins = p.bins := rfl
@[simp] theorem Part.startIdleTimer_stock (p : Part) : (p.startIdleTimer).stock = p.stock := rfl
@[simp] theorem Part.startIdleTimer_carriage (p : Part) : (p.startIdleTimer).carriage = p.carriage := rfl
@[simp] theorem Part.startIdleTimer_conv (p : Part) : (p.startIdleTimer).conv = p.conv := rfl
@[simp] theorem Part.startIdleTimer_drawers (p : Part) : (p.startIdleTimer).drawers = p.drawers := rfl
@[simp] theorem Part.startIdleTimer_faults (p : Part) : (p.startIdleTimer).faults = p.faults := rfl
@[simp] theorem Part.startIdleTimer_out (p : Part) : (p.startIdleTimer).out = p.out := rfl

@[simp] theorem Part.changeMode_now (p : Part) (m : Mode) (c : ModeCause) (k : Option FaultKind) : (p.changeMode m c k).now = p.now := rfl
@[simp] theorem Part.changeMode_lines (p : Part) (m : Mode) (c : ModeCause) (k : Option FaultKind) : (p.changeMode m c k).lines = p.lines := rfl
@[simp] theorem Part.changeMode_jobs (p : Part) (m : Mode) (c : ModeCause) (k : Option FaultKind) : (p.changeMode m c k).jobs = p.jobs := rfl
@[simp] theorem Part.changeMode_runs (p : Part) (m : Mode) (c : ModeCause) (k : Option FaultKind) : (p.changeMode m c k).runs = p.runs := rfl
@[simp] theorem Part.changeMode_path (p : Part) (m : Mode) (c : ModeCause) (k : Option FaultKind) : (p.changeMode m c k).path = p.path := rfl
@[simp] theorem Part.changeMode_bins (p : Part) (m : Mode) (c : ModeCause) (k : Option FaultKind) : (p.changeMode m c k).bins = p.bins := rfl
@[simp] theorem Part.changeMode_stock (p : Part) (m : Mode) (c : ModeCause) (k : Option FaultKind) : (p.changeMode m c k).stock = p.stock := rfl
@[simp] theorem Part.changeMode_carriage (p : Part) (m : Mode) (c : ModeCause) (k : Option FaultKind) : (p.changeMode m c k).carriage = p.carriage := rfl
@[simp] theorem Part.changeMode_conv (p : Part) (m : Mode) (c : ModeCause) (k : Option FaultKind) : (p.changeMode m c k).conv = p.conv := rfl
@[simp] theorem Part.changeMode_drawers (p : Part) (m : Mode) (c : ModeCause) (k : Option FaultKind) : (p.changeMode m c k).drawers = p.drawers := rfl
@[simp] theorem Part.changeMode_faults (p : Part) (m : Mode) (c : ModeCause) (k : Option FaultKind) : (p.changeMode m c k).faults = p.faults := rfl

@[simp] theorem Part.appendEject_now (p : Part) (b : Nat) : (p.appendEject b).now = p.now := rfl
@[simp] theorem Part.appendEject_lines (p : Part) (b : Nat) : (p.appendEject b).lines = p.lines := rfl
@[simp] theorem Part.appendEject_ctl (p : Part) (b : Nat) : (p.appendEject b).ctl = p.ctl := rfl
@[simp] theorem Part.appendEject_jobs (p : Part) (b : Nat) : (p.appendEject b).jobs = p.jobs := rfl
@[simp] theorem Part.appendEject_runs (p : Part) (b : Nat) : (p.appendEject b).runs = p.runs := rfl
@[simp] theorem Part.appendEject_path (p : Part) (b : Nat) : (p.appendEject b).path = p.path := rfl
@[simp] theorem Part.appendEject_bins (p : Part) (b : Nat) : (p.appendEject b).bins = p.bins := rfl
@[simp] theorem Part.appendEject_stock (p : Part) (b : Nat) : (p.appendEject b).stock = p.stock := rfl
@[simp] theorem Part.appendEject_carriage (p : Part) (b : Nat) : (p.appendEject b).carriage = p.carriage := rfl
@[simp] theorem Part.appendEject_drawers (p : Part) (b : Nat) : (p.appendEject b).drawers = p.drawers := rfl
@[simp] theorem Part.appendEject_faults (p : Part) (b : Nat) : (p.appendEject b).faults = p.faults := rfl
@[simp] theorem Part.appendEject_out (p : Part) (b : Nat) : (p.appendEject b).out = p.out := rfl

@[simp] theorem Part.leaveEject_now (p : Part) (b : Nat) : (p.leaveEject b).now = p.now := rfl
@[simp] theorem Part.leaveEject_lines (p : Part) (b : Nat) : (p.leaveEject b).lines = p.lines := rfl
@[simp] theorem Part.leaveEject_ctl (p : Part) (b : Nat) : (p.leaveEject b).ctl = p.ctl := rfl
@[simp] theorem Part.leaveEject_jobs (p : Part) (b : Nat) : (p.leaveEject b).jobs = p.jobs := rfl
@[simp] theorem Part.leaveEject_runs (p : Part) (b : Nat) : (p.leaveEject b).runs = p.runs := rfl
@[simp] theorem Part.leaveEject_path (p : Part) (b : Nat) : (p.leaveEject b).path = p.path := rfl
@[simp] theorem Part.leaveEject_bins (p : Part) (b : Nat) : (p.leaveEject b).bins = p.bins := rfl
@[simp] theorem Part.leaveEject_stock (p : Part) (b : Nat) : (p.leaveEject b).stock = p.stock := rfl
@[simp] theorem Part.leaveEject_carriage (p : Part) (b : Nat) : (p.leaveEject b).carriage = p.carriage := rfl
@[simp] theorem Part.leaveEject_drawers (p : Part) (b : Nat) : (p.leaveEject b).drawers = p.drawers := rfl
@[simp] theorem Part.leaveEject_faults (p : Part) (b : Nat) : (p.leaveEject b).faults = p.faults := rfl
@[simp] theorem Part.leaveEject_out (p : Part) (b : Nat) : (p.leaveEject b).out = p.out := rfl

@[simp] theorem Part.leaveStitch_now (p : Part) (b : Nat) : (p.leaveStitch b).now = p.now := rfl
@[simp] theorem Part.leaveStitch_lines (p : Part) (b : Nat) : (p.leaveStitch b).lines = p.lines := rfl
@[simp] theorem Part.leaveStitch_ctl (p : Part) (b : Nat) : (p.leaveStitch b).ctl = p.ctl := rfl
@[simp] theorem Part.leaveStitch_jobs (p : Part) (b : Nat) : (p.leaveStitch b).jobs = p.jobs := rfl
@[simp] theorem Part.leaveStitch_runs (p : Part) (b : Nat) : (p.leaveStitch b).runs = p.runs := rfl
@[simp] theorem Part.leaveStitch_path (p : Part) (b : Nat) : (p.leaveStitch b).path = p.path := rfl
@[simp] theorem Part.leaveStitch_bins (p : Part) (b : Nat) : (p.leaveStitch b).bins = p.bins := rfl
@[simp] theorem Part.leaveStitch_stock (p : Part) (b : Nat) : (p.leaveStitch b).stock = p.stock := rfl
@[simp] theorem Part.leaveStitch_conv (p : Part) (b : Nat) : (p.leaveStitch b).conv = p.conv := rfl
@[simp] theorem Part.leaveStitch_drawers (p : Part) (b : Nat) : (p.leaveStitch b).drawers = p.drawers := rfl
@[simp] theorem Part.leaveStitch_faults (p : Part) (b : Nat) : (p.leaveStitch b).faults = p.faults := rfl
@[simp] theorem Part.leaveStitch_out (p : Part) (b : Nat) : (p.leaveStitch b).out = p.out := rfl

@[simp] theorem Part.insertTail_now (p : Part) (b : Nat) : (p.insertTail b).now = p.now := rfl
@[simp] theorem Part.insertTail_lines (p : Part) (b : Nat) : (p.insertTail b).lines = p.lines := rfl
@[simp] theorem Part.insertTail_ctl (p : Part) (b : Nat) : (p.insertTail b).ctl = p.ctl := rfl
@[simp] theorem Part.insertTail_jobs (p : Part) (b : Nat) : (p.insertTail b).jobs = p.jobs := rfl
@[simp] theorem Part.insertTail_runs (p : Part) (b : Nat) : (p.insertTail b).runs = p.runs := rfl
@[simp] theorem Part.insertTail_path (p : Part) (b : Nat) : (p.insertTail b).path = p.path := rfl
@[simp] theorem Part.insertTail_bins (p : Part) (b : Nat) : (p.insertTail b).bins = p.bins := rfl
@[simp] theorem Part.insertTail_stock (p : Part) (b : Nat) : (p.insertTail b).stock = p.stock := rfl
@[simp] theorem Part.insertTail_conv (p : Part) (b : Nat) : (p.insertTail b).conv = p.conv := rfl
@[simp] theorem Part.insertTail_drawers (p : Part) (b : Nat) : (p.insertTail b).drawers = p.drawers := rfl
@[simp] theorem Part.insertTail_faults (p : Part) (b : Nat) : (p.insertTail b).faults = p.faults := rfl
@[simp] theorem Part.insertTail_out (p : Part) (b : Nat) : (p.insertTail b).out = p.out := rfl

@[simp] theorem Part.insertHead_now (p : Part) (b : Nat) : (p.insertHead b).now = p.now := rfl
@[simp] theorem Part.insertHead_lines (p : Part) (b : Nat) : (p.insertHead b).lines = p.lines := rfl
@[simp] theorem Part.insertHead_ctl (p : Part) (b : Nat) : (p.insertHead b).ctl = p.ctl := rfl
@[simp] theorem Part.insertHead_jobs (p : Part) (b : Nat) : (p.insertHead b).jobs = p.jobs := rfl
@[simp] theorem Part.insertHead_runs (p : Part) (b : Nat) : (p.insertHead b).runs = p.runs := rfl
@[simp] theorem Part.insertHead_path (p : Part) (b : Nat) : (p.insertHead b).path = p.path := rfl
@[simp] theorem Part.insertHead_bins (p : Part) (b : Nat) : (p.insertHead b).bins = p.bins := rfl
@[simp] theorem Part.insertHead_stock (p : Part) (b : Nat) : (p.insertHead b).stock = p.stock := rfl
@[simp] theorem Part.insertHead_conv (p : Part) (b : Nat) : (p.insertHead b).conv = p.conv := rfl
@[simp] theorem Part.insertHead_drawers (p : Part) (b : Nat) : (p.insertHead b).drawers = p.drawers := rfl
@[simp] theorem Part.insertHead_faults (p : Part) (b : Nat) : (p.insertHead b).faults = p.faults := rfl
@[simp] theorem Part.insertHead_out (p : Part) (b : Nat) : (p.insertHead b).out = p.out := rfl

@[simp] theorem Part.startHoming_now (p : Part) : (p.startHoming).now = p.now := rfl
@[simp] theorem Part.startHoming_lines (p : Part) : (p.startHoming).lines = p.lines := rfl
@[simp] theorem Part.startHoming_ctl (p : Part) : (p.startHoming).ctl = p.ctl := rfl
@[simp] theorem Part.startHoming_jobs (p : Part) : (p.startHoming).jobs = p.jobs := rfl
@[simp] theorem Part.startHoming_runs (p : Part) : (p.startHoming).runs = p.runs := rfl
@[simp] theorem Part.startHoming_path (p : Part) : (p.startHoming).path = p.path := rfl
@[simp] theorem Part.startHoming_bins (p : Part) : (p.startHoming).bins = p.bins := rfl
@[simp] theorem Part.startHoming_stock (p : Part) : (p.startHoming).stock = p.stock := rfl
@[simp] theorem Part.startHoming_conv (p : Part) : (p.startHoming).conv = p.conv := rfl
@[simp] theorem Part.startHoming_drawers (p : Part) : (p.startHoming).drawers = p.drawers := rfl
@[simp] theorem Part.startHoming_faults (p : Part) : (p.startHoming).faults = p.faults := rfl
@[simp] theorem Part.startHoming_out (p : Part) : (p.startHoming).out = p.out := rfl

@[simp] theorem Part.stopDrive_now (p : Part) : (p.stopDrive).now = p.now := rfl
@[simp] theorem Part.stopDrive_lines (p : Part) : (p.stopDrive).lines = p.lines := rfl
@[simp] theorem Part.stopDrive_ctl (p : Part) : (p.stopDrive).ctl = p.ctl := rfl
@[simp] theorem Part.stopDrive_jobs (p : Part) : (p.stopDrive).jobs = p.jobs := rfl
@[simp] theorem Part.stopDrive_runs (p : Part) : (p.stopDrive).runs = p.runs := rfl
@[simp] theorem Part.stopDrive_path (p : Part) : (p.stopDrive).path = p.path := rfl
@[simp] theorem Part.stopDrive_bins (p : Part) : (p.stopDrive).bins = p.bins := rfl
@[simp] theorem Part.stopDrive_stock (p : Part) : (p.stopDrive).stock = p.stock := rfl
@[simp] theorem Part.stopDrive_conv (p : Part) : (p.stopDrive).conv = p.conv := rfl
@[simp] theorem Part.stopDrive_drawers (p : Part) : (p.stopDrive).drawers = p.drawers := rfl
@[simp] theorem Part.stopDrive_faults (p : Part) : (p.stopDrive).faults = p.faults := rfl
@[simp] theorem Part.stopDrive_out (p : Part) : (p.stopDrive).out = p.out := rfl

@[simp] theorem Part.countPurge_now (p : Part) : (p.countPurge).now = p.now := rfl
@[simp] theorem Part.countPurge_lines (p : Part) : (p.countPurge).lines = p.lines := rfl
@[simp] theorem Part.countPurge_ctl (p : Part) : (p.countPurge).ctl = p.ctl := rfl
@[simp] theorem Part.countPurge_jobs (p : Part) : (p.countPurge).jobs = p.jobs := rfl
@[simp] theorem Part.countPurge_runs (p : Part) : (p.countPurge).runs = p.runs := rfl
@[simp] theorem Part.countPurge_bins (p : Part) : (p.countPurge).bins = p.bins := rfl
@[simp] theorem Part.countPurge_stock (p : Part) : (p.countPurge).stock = p.stock := rfl
@[simp] theorem Part.countPurge_carriage (p : Part) : (p.countPurge).carriage = p.carriage := rfl
@[simp] theorem Part.countPurge_conv (p : Part) : (p.countPurge).conv = p.conv := rfl
@[simp] theorem Part.countPurge_drawers (p : Part) : (p.countPurge).drawers = p.drawers := rfl
@[simp] theorem Part.countPurge_faults (p : Part) : (p.countPurge).faults = p.faults := rfl
@[simp] theorem Part.countPurge_out (p : Part) : (p.countPurge).out = p.out := rfl

@[simp] theorem Part.stopSheet_now (p : Part) : (p.stopSheet).now = p.now := rfl
@[simp] theorem Part.stopSheet_lines (p : Part) : (p.stopSheet).lines = p.lines := rfl
@[simp] theorem Part.stopSheet_ctl (p : Part) : (p.stopSheet).ctl = p.ctl := rfl
@[simp] theorem Part.stopSheet_jobs (p : Part) : (p.stopSheet).jobs = p.jobs := rfl
@[simp] theorem Part.stopSheet_runs (p : Part) : (p.stopSheet).runs = p.runs := rfl
@[simp] theorem Part.stopSheet_bins (p : Part) : (p.stopSheet).bins = p.bins := rfl
@[simp] theorem Part.stopSheet_stock (p : Part) : (p.stopSheet).stock = p.stock := rfl
@[simp] theorem Part.stopSheet_carriage (p : Part) : (p.stopSheet).carriage = p.carriage := rfl
@[simp] theorem Part.stopSheet_conv (p : Part) : (p.stopSheet).conv = p.conv := rfl
@[simp] theorem Part.stopSheet_drawers (p : Part) : (p.stopSheet).drawers = p.drawers := rfl
@[simp] theorem Part.stopSheet_faults (p : Part) : (p.stopSheet).faults = p.faults := rfl
@[simp] theorem Part.stopSheet_out (p : Part) : (p.stopSheet).out = p.out := rfl

/-! ## Reading after writing -/

/-- R58: a written bin reads as written. -/
theorem Part.bin_setBin (p : Part) (b : Nat) (r : Bin) (c : Nat) :
    (p.setBin b r).bin c = if c = b ∧ binOk b = true then r else p.bin c := by
  unfold Part.setBin Part.bin binOk
  by_cases hb : 1 ≤ b ∧ b ≤ Config.numBins
  · by_cases hc : 1 ≤ c ∧ c ≤ Config.numBins
    · simp only [hb, hc, and_self, dite_true, decide_true, Bool.and_self, and_true]
      by_cases h : c = b
      · subst h; simp
      · rw [if_neg h, Vector.getElem_set_ne _ _ (by omega)]
    · have h : c ≠ b := by rintro rfl; exact hc hb
      simp [hb, hc, h]
  · simp [hb]

@[simp] theorem Part.bin_setBin_ne (p : Part) {b c : Nat} (r : Bin) (h : c ≠ b) : (p.setBin b r).bin c = p.bin c := by
  simp [Part.bin_setBin, h]

@[simp] theorem Part.bin_setBin_self (p : Part) {b : Nat} (r : Bin) (h : binOk b = true) : (p.setBin b r).bin b = r := by
  simp [Part.bin_setBin, h]

/-- A bin reads the same in parts with the same bins. -/
theorem Part.bin_congr {p q : Part} (h : p.bins = q.bins) (b : Nat) : p.bin b = q.bin b := by
  simp [Part.bin, h]

theorem Part.bin_modSet (p : Part) (b : Nat) (g : SetRecord → SetRecord) (c : Nat) :
    (p.modSet b g).bin c = if c = b ∧ binOk b = true then { p.bin b with set := g (p.bin b).set } else p.bin c :=
  Part.bin_setBin ..

theorem Part.bin_setBinState (p : Part) (b : Nat) (st : BinState) (c : Nat) :
    (p.setBinState b st).bin c = if c = b ∧ binOk b = true then { p.bin b with state := st } else p.bin c :=
  Part.bin_setBin ..

/-- R75: a defined stock entry reads as defined. -/
theorem Part.stockAt_setStock (p : Part) (c : Nat) (e : StockEntry) (d : Nat) :
    (p.setStock c e).stockAt d = if d = c ∧ c < Config.numStocks then e else p.stockAt d := by
  unfold Part.setStock Part.stockAt
  by_cases hc : c < Config.numStocks
  · by_cases hd : d < Config.numStocks
    · simp only [hc, hd, dite_true, and_true]
      by_cases h : d = c
      · subst h; simp
      · rw [if_neg h, Vector.getElem_set_ne _ _ (by omega)]
    · have h : d ≠ c := by rintro rfl; exact hd hc
      simp [hc, hd, h]
  · simp [hc]

/-- R116: a written drawer record reads as written. -/
theorem DrawerMap.drawer_setDrawer (m : DrawerMap) (d : Nat) (r : Drawer) (e : Nat) :
    (m.setDrawer d r).drawer e = if e = d ∧ drawerOk d = true then r else m.drawer e := by
  unfold DrawerMap.setDrawer DrawerMap.drawer drawerOk
  by_cases hd : 1 ≤ d ∧ d ≤ Config.numDrawers
  · by_cases he : 1 ≤ e ∧ e ≤ Config.numDrawers
    · simp only [hd, he, and_self, dite_true, decide_true, Bool.and_self, and_true]
      by_cases h : e = d
      · subst h; simp
      · rw [if_neg h, Vector.getElem_set_ne _ _ (by omega)]
    · have h : e ≠ d := by rintro rfl; exact he hd
      simp [hd, he, h]
  · simp [hd]

@[simp] theorem DrawerMap.setDrawer_nv (m : DrawerMap) (d : Nat) (r : Drawer) : (m.setDrawer d r).nv = m.nv := by
  unfold DrawerMap.setDrawer; split <;> rfl
@[simp] theorem DrawerMap.setDrawer_markers (m : DrawerMap) (d : Nat) (r : Drawer) : (m.setDrawer d r).markers = m.markers := by
  unfold DrawerMap.setDrawer; split <;> rfl
@[simp] theorem DrawerMap.setDrawer_tree (m : DrawerMap) (d : Nat) (r : Drawer) : (m.setDrawer d r).tree = m.tree := by
  unfold DrawerMap.setDrawer; split <;> rfl
@[simp] theorem DrawerMap.rewriteNv_recs (m : DrawerMap) (d : Nat) : (m.rewriteNv d).recs = m.recs := by
  unfold DrawerMap.rewriteNv; split <;> rfl
@[simp] theorem DrawerMap.rewriteNv_markers (m : DrawerMap) (d : Nat) : (m.rewriteNv d).markers = m.markers := by
  unfold DrawerMap.rewriteNv; split <;> rfl
@[simp] theorem DrawerMap.rewriteNv_tree (m : DrawerMap) (d : Nat) : (m.rewriteNv d).tree = m.tree := by
  unfold DrawerMap.rewriteNv; split <;> rfl
@[simp] theorem DrawerMap.use_recs (m : DrawerMap) (d : Nat) : (m.use d).recs = m.recs := by
  unfold DrawerMap.use DrawerMap.setMarker; split <;> [rfl; (split <;> rfl)]
@[simp] theorem DrawerMap.use_nv (m : DrawerMap) (d : Nat) : (m.use d).nv = m.nv := by
  unfold DrawerMap.use DrawerMap.setMarker; split <;> [rfl; (split <;> rfl)]

/-- Records read the same in maps with the same records. -/
theorem DrawerMap.drawer_congr {m k : DrawerMap} (h : m.recs = k.recs) (d : Nat) : m.drawer d = k.drawer d := by
  simp [DrawerMap.drawer, h]

/-- R129: the rewritten copy is that of the record as it stands. -/
theorem DrawerMap.nvOf_rewriteNv (m : DrawerMap) (d e : Nat) :
    (m.rewriteNv d).nvOf e =
      if e = d ∧ drawerOk d = true then { dest := (m.drawer d).dest, locked := (m.drawer d).locked } else m.nvOf e := by
  unfold DrawerMap.rewriteNv DrawerMap.nvOf drawerOk
  by_cases hd : 1 ≤ d ∧ d ≤ Config.numDrawers
  · by_cases he : 1 ≤ e ∧ e ≤ Config.numDrawers
    · simp only [hd, he, and_self, dite_true, decide_true, Bool.and_self, and_true]
      by_cases h : e = d
      · subst h; simp
      · rw [if_neg h, Vector.getElem_set_ne _ _ (by omega)]
    · have h : e ≠ d := by rintro rfl; exact he hd
      simp [hd, he, h]
  · simp [hd]

/-- Copies read the same in maps with the same copies. -/
theorem DrawerMap.nvOf_congr {m k : DrawerMap} (h : m.nv = k.nv) (d : Nat) : m.nvOf d = k.nvOf d := by
  simp [DrawerMap.nvOf, h]

end Sys2Proof.Machine
end

