-- ==== Sys2Proof/Laws/Frames.lean ====
section
/-! SUPPORT. What each shared operation of the part leaves as it was: one lemma for each, over the blocks it does not touch. -/

namespace Sys2Proof.Machine

@[simp] theorem Part.latch_frame (p : Part) (c : Condition) :
    (p.latch c).now = p.now ∧ (p.latch c).lines = p.lines ∧ (p.latch c).ctl = p.ctl ∧ (p.latch c).jobs = p.jobs ∧
    (p.latch c).runs = p.runs ∧ (p.latch c).path = p.path ∧ (p.latch c).bins = p.bins ∧ (p.latch c).stock = p.stock ∧
    (p.latch c).carriage = p.carriage ∧ (p.latch c).conv = p.conv ∧ (p.latch c).drawers = p.drawers := by
  unfold Part.latch
  dsimp only
  (repeat' split) <;> simp

@[simp] theorem Part.latchIf_frame (p : Part) (b : Bool) (c : Condition) :
    (p.latchIf b c).now = p.now ∧ (p.latchIf b c).lines = p.lines ∧ (p.latchIf b c).ctl = p.ctl ∧
    (p.latchIf b c).jobs = p.jobs ∧ (p.latchIf b c).runs = p.runs ∧ (p.latchIf b c).path = p.path ∧
    (p.latchIf b c).bins = p.bins ∧ (p.latchIf b c).stock = p.stock ∧ (p.latchIf b c).carriage = p.carriage ∧
    (p.latchIf b c).conv = p.conv ∧ (p.latchIf b c).drawers = p.drawers := by
  unfold Part.latchIf
  split <;> simp

@[simp] theorem Part.latchWireOut_frame (p : Part) (b : Bool) :
    (p.latchWireOut b).now = p.now ∧ (p.latchWireOut b).lines = p.lines ∧ (p.latchWireOut b).ctl = p.ctl ∧
    (p.latchWireOut b).jobs = p.jobs ∧ (p.latchWireOut b).runs = p.runs ∧ (p.latchWireOut b).path = p.path ∧
    (p.latchWireOut b).bins = p.bins ∧ (p.latchWireOut b).stock = p.stock ∧ (p.latchWireOut b).carriage = p.carriage ∧
    (p.latchWireOut b).conv = p.conv ∧ (p.latchWireOut b).drawers = p.drawers := by
  simp [Part.latchWireOut]

@[simp] theorem Part.clearCondition_frame (p : Part) (c : Condition) :
    (p.clearCondition c).now = p.now ∧ (p.clearCondition c).lines = p.lines ∧ (p.clearCondition c).ctl = p.ctl ∧
    (p.clearCondition c).jobs = p.jobs ∧ (p.clearCondition c).runs = p.runs ∧ (p.clearCondition c).path = p.path ∧
    (p.clearCondition c).bins = p.bins ∧ (p.clearCondition c).stock = p.stock ∧ (p.clearCondition c).carriage = p.carriage ∧
    (p.clearCondition c).conv = p.conv ∧ (p.clearCondition c).drawers = p.drawers ∧ (p.clearCondition c).out = p.out := by
  unfold Part.clearCondition
  split <;> simp

@[simp] theorem Part.setWire_frame (p : Part) (w : Nat) :
    (p.setWire w).now = p.now ∧ (p.setWire w).lines = p.lines ∧ (p.setWire w).ctl = p.ctl ∧ (p.setWire w).jobs = p.jobs ∧
    (p.setWire w).runs = p.runs ∧ (p.setWire w).path = p.path ∧ (p.setWire w).bins = p.bins ∧ (p.setWire w).stock = p.stock ∧
    (p.setWire w).conv = p.conv ∧ (p.setWire w).drawers = p.drawers := by
  simp [Part.setWire]

@[simp] theorem Part.recordFault_frame (p : Part) (e : FaultEntry) :
    (p.recordFault e).now = p.now ∧ (p.recordFault e).lines = p.lines ∧ (p.recordFault e).jobs = p.jobs ∧
    (p.recordFault e).runs = p.runs ∧ (p.recordFault e).path = p.path ∧ (p.recordFault e).bins = p.bins ∧
    (p.recordFault e).stock = p.stock ∧ (p.recordFault e).carriage = p.carriage ∧ (p.recordFault e).conv = p.conv ∧
    (p.recordFault e).drawers = p.drawers := by
  unfold Part.recordFault
  dsimp only
  split <;> simp

@[simp] theorem Part.drawerAct_frame (p : Part) (r : DrawerMap × List DrawerChange) :
    (p.drawerAct r).now = p.now ∧ (p.drawerAct r).lines = p.lines ∧ (p.drawerAct r).ctl = p.ctl ∧
    (p.drawerAct r).jobs = p.jobs ∧ (p.drawerAct r).runs = p.runs ∧ (p.drawerAct r).path = p.path ∧
    (p.drawerAct r).bins = p.bins ∧ (p.drawerAct r).stock = p.stock ∧ (p.drawerAct r).carriage = p.carriage ∧
    (p.drawerAct r).conv = p.conv ∧ (p.drawerAct r).faults = p.faults := by
  have key : ∀ (cs : List DrawerChange) (q : Part),
      (cs.foldl (fun p c => p.raise (.drawerChanged c)) q).now = q.now ∧
      (cs.foldl (fun p c => p.raise (.drawerChanged c)) q).lines = q.lines ∧
      (cs.foldl (fun p c => p.raise (.drawerChanged c)) q).ctl = q.ctl ∧
      (cs.foldl (fun p c => p.raise (.drawerChanged c)) q).jobs = q.jobs ∧
      (cs.foldl (fun p c => p.raise (.drawerChanged c)) q).runs = q.runs ∧
      (cs.foldl (fun p c => p.raise (.drawerChanged c)) q).path = q.path ∧
      (cs.foldl (fun p c => p.raise (.drawerChanged c)) q).bins = q.bins ∧
      (cs.foldl (fun p c => p.raise (.drawerChanged c)) q).stock = q.stock ∧
      (cs.foldl (fun p c => p.raise (.drawerChanged c)) q).carriage = q.carriage ∧
      (cs.foldl (fun p c => p.raise (.drawerChanged c)) q).conv = q.conv ∧
      (cs.foldl (fun p c => p.raise (.drawerChanged c)) q).faults = q.faults := by
    intro cs
    induction cs with
    | nil => simp
    | cons c cs ih => intro q; simpa using ih (q.raise (.drawerChanged c))
  simpa [Part.drawerAct] using key r.2 { p with drawers := r.1 }

@[simp] theorem Part.park_frame (p : Part) (c : ModeCause) :
    (p.park c).now = p.now ∧ (p.park c).lines = p.lines ∧ (p.park c).jobs = p.jobs ∧ (p.park c).runs = p.runs ∧
    (p.park c).bins = p.bins ∧ (p.park c).stock = p.stock ∧ (p.park c).carriage = p.carriage ∧ (p.park c).conv = p.conv ∧
    (p.park c).drawers = p.drawers ∧ (p.park c).faults = p.faults := by
  simp [Part.park]

@[simp] theorem Part.wake_frame (p : Part) :
    p.wake.now = p.now ∧ p.wake.lines = p.lines ∧ p.wake.jobs = p.jobs ∧ p.wake.runs = p.runs ∧ p.wake.path = p.path ∧
    p.wake.bins = p.bins ∧ p.wake.stock = p.stock ∧ p.wake.carriage = p.carriage ∧ p.wake.conv = p.conv ∧
    p.wake.drawers = p.drawers ∧ p.wake.faults = p.faults := by
  unfold Part.wake
  split <;> simp

@[simp] theorem Part.examineIdle_frame (p : Part) :
    p.examineIdle.now = p.now ∧ p.examineIdle.lines = p.lines ∧ p.examineIdle.jobs = p.jobs ∧ p.examineIdle.runs = p.runs ∧
    p.examineIdle.bins = p.bins ∧ p.examineIdle.stock = p.stock ∧ p.examineIdle.carriage = p.carriage ∧
    p.examineIdle.conv = p.conv ∧ p.examineIdle.drawers = p.drawers ∧ p.examineIdle.faults = p.faults := by
  unfold Part.examineIdle
  (repeat' split) <;> simp

@[simp] theorem Part.startEjector_frame (p : Part) :
    p.startEjector.now = p.now ∧ p.startEjector.lines = p.lines ∧ p.startEjector.ctl = p.ctl ∧ p.startEjector.jobs = p.jobs ∧
    p.startEjector.runs = p.runs ∧ p.startEjector.bins = p.bins ∧ p.startEjector.stock = p.stock ∧
    p.startEjector.carriage = p.carriage ∧ p.startEjector.drawers = p.drawers ∧ p.startEjector.faults = p.faults ∧
    p.startEjector.out = p.out := by
  unfold Part.startEjector
  split <;> simp

@[simp] theorem Part.slipStep_frame (p : Part) :
    p.slipStep.now = p.now ∧ p.slipStep.lines = p.lines ∧ p.slipStep.ctl = p.ctl ∧ p.slipStep.jobs = p.jobs ∧
    p.slipStep.runs = p.runs ∧ p.slipStep.bins = p.bins ∧ p.slipStep.stock = p.stock ∧ p.slipStep.carriage = p.carriage ∧
    p.slipStep.drawers = p.drawers := by
  unfold Part.slipStep
  (repeat' split) <;> simp

@[simp] theorem Part.fixPlace_frame (p : Part) (b : Nat) :
    (p.fixPlace b).1.now = p.now ∧ (p.fixPlace b).1.lines = p.lines ∧ (p.fixPlace b).1.ctl = p.ctl ∧
    (p.fixPlace b).1.jobs = p.jobs ∧ (p.fixPlace b).1.runs = p.runs ∧ (p.fixPlace b).1.path = p.path ∧
    (p.fixPlace b).1.bins = p.bins ∧ (p.fixPlace b).1.stock = p.stock ∧ (p.fixPlace b).1.carriage = p.carriage ∧
    (p.fixPlace b).1.conv = p.conv ∧ (p.fixPlace b).1.faults = p.faults := by
  unfold Part.fixPlace
  split <;> simp

@[simp] theorem Part.choose_frame (p : Part) (b : Nat) :
    (p.choose b).now = p.now ∧ (p.choose b).lines = p.lines ∧ (p.choose b).ctl = p.ctl ∧ (p.choose b).jobs = p.jobs ∧
    (p.choose b).runs = p.runs ∧ (p.choose b).stock = p.stock ∧ (p.choose b).carriage = p.carriage := by
  unfold Part.choose
  dsimp only
  split <;> simp

@[simp] theorem Part.choiceCheck_frame (p : Part) :
    p.choiceCheck.now = p.now ∧ p.choiceCheck.lines = p.lines ∧ p.choiceCheck.ctl = p.ctl ∧ p.choiceCheck.jobs = p.jobs ∧
    p.choiceCheck.runs = p.runs ∧ p.choiceCheck.stock = p.stock ∧ p.choiceCheck.carriage = p.carriage := by
  unfold Part.choiceCheck
  dsimp only
  (repeat' split) <;> simp

@[simp] theorem Part.joinEject_frame (p : Part) (b : Nat) :
    (p.joinEject b).now = p.now ∧ (p.joinEject b).lines = p.lines ∧ (p.joinEject b).jobs = p.jobs ∧
    (p.joinEject b).runs = p.runs ∧ (p.joinEject b).stock = p.stock ∧ (p.joinEject b).carriage = p.carriage := by
  simp [Part.joinEject]

@[simp] theorem Part.stopConveyor_frame (p : Part) :
    p.stopConveyor.now = p.now ∧ p.stopConveyor.lines = p.lines ∧ p.stopConveyor.ctl = p.ctl ∧ p.stopConveyor.jobs = p.jobs ∧
    p.stopConveyor.runs = p.runs ∧ p.stopConveyor.path = p.path ∧ p.stopConveyor.bins = p.bins ∧
    p.stopConveyor.stock = p.stock ∧ p.stopConveyor.carriage = p.carriage ∧ p.stopConveyor.drawers = p.drawers ∧
    p.stopConveyor.faults = p.faults ∧ p.stopConveyor.out = p.out := by
  unfold Part.stopConveyor
  split <;> simp

@[simp] theorem Part.startCycle_frame (p : Part) (b : Nat) :
    (p.startCycle b).now = p.now ∧ (p.startCycle b).lines = p.lines ∧ (p.startCycle b).ctl = p.ctl ∧
    (p.startCycle b).jobs = p.jobs ∧ (p.startCycle b).runs = p.runs ∧ (p.startCycle b).path = p.path ∧
    (p.startCycle b).stock = p.stock ∧ (p.startCycle b).conv = p.conv ∧ (p.startCycle b).drawers = p.drawers := by
  unfold Part.startCycle
  dsimp only
  split <;> simp

@[simp] theorem Part.take_frame (p : Part) (b : Nat) :
    (p.take b).now = p.now ∧ (p.take b).lines = p.lines ∧ (p.take b).ctl = p.ctl ∧ (p.take b).jobs = p.jobs ∧
    (p.take b).runs = p.runs ∧ (p.take b).path = p.path ∧ (p.take b).stock = p.stock ∧ (p.take b).conv = p.conv ∧
    (p.take b).drawers = p.drawers := by
  unfold Part.take
  dsimp only
  split <;> simp

@[simp] theorem Part.replan_frame (p : Part) (b : Nat) :
    (p.replan b).now = p.now ∧ (p.replan b).lines = p.lines ∧ (p.replan b).jobs = p.jobs ∧ (p.replan b).runs = p.runs ∧
    (p.replan b).stock = p.stock := by
  simp [Part.replan]

@[simp] theorem Part.takeCheckN_frame (p : Part) (n : Nat) :
    (Part.takeCheckN n p).now = p.now ∧ (Part.takeCheckN n p).lines = p.lines ∧ (Part.takeCheckN n p).jobs = p.jobs ∧
    (Part.takeCheckN n p).runs = p.runs ∧ (Part.takeCheckN n p).stock = p.stock := by
  induction n generalizing p with
  | zero => simp [Part.takeCheckN]
  | succ n ih =>
    unfold Part.takeCheckN
    (repeat' split) <;> simp [ih]

@[simp] theorem Part.takeCheck_frame (p : Part) :
    p.takeCheck.now = p.now ∧ p.takeCheck.lines = p.lines ∧ p.takeCheck.jobs = p.jobs ∧ p.takeCheck.runs = p.runs ∧
    p.takeCheck.stock = p.stock := by
  simp [Part.takeCheck]

@[simp] theorem Part.joinStitch_frame (p : Part) (b : Nat) :
    (p.joinStitch b).now = p.now ∧ (p.joinStitch b).lines = p.lines ∧ (p.joinStitch b).jobs = p.jobs ∧
    (p.joinStitch b).runs = p.runs ∧ (p.joinStitch b).stock = p.stock := by
  simp [Part.joinStitch]

@[simp] theorem Part.handOn_frame (p : Part) (b : Nat) :
    (p.handOn b).now = p.now ∧ (p.handOn b).lines = p.lines ∧ (p.handOn b).jobs = p.jobs ∧ (p.handOn b).runs = p.runs ∧
    (p.handOn b).stock = p.stock := by
  simp [Part.handOn]

@[simp] theorem Part.carriageService_frame (p : Part) :
    p.carriageService.now = p.now ∧ p.carriageService.lines = p.lines ∧ p.carriageService.ctl = p.ctl ∧
    p.carriageService.jobs = p.jobs ∧ p.carriageService.runs = p.runs ∧ p.carriageService.path = p.path ∧
    p.carriageService.bins = p.bins ∧ p.carriageService.stock = p.stock ∧ p.carriageService.conv = p.conv ∧
    p.carriageService.drawers = p.drawers ∧ p.carriageService.faults = p.faults ∧ p.carriageService.out = p.out := by
  unfold Part.carriageService
  dsimp only
  split <;> simp

@[simp] theorem Part.carriageHalt_frame (p : Part) :
    p.carriageHalt.now = p.now ∧ p.carriageHalt.lines = p.lines ∧ p.carriageHalt.ctl = p.ctl ∧ p.carriageHalt.jobs = p.jobs ∧
    p.carriageHalt.runs = p.runs ∧ p.carriageHalt.path = p.path ∧ p.carriageHalt.bins = p.bins ∧
    p.carriageHalt.stock = p.stock ∧ p.carriageHalt.conv = p.conv ∧ p.carriageHalt.drawers = p.drawers ∧
    p.carriageHalt.faults = p.faults ∧ p.carriageHalt.out = p.out := by
  simp [Part.carriageHalt]

@[simp] theorem Part.assignBins_frame (p : Part) (n k : Nat) (bs : List Nat) :
    (p.assignBins n k bs).now = p.now ∧ (p.assignBins n k bs).lines = p.lines ∧ (p.assignBins n k bs).ctl = p.ctl ∧
    (p.assignBins n k bs).jobs = p.jobs ∧ (p.assignBins n k bs).runs = p.runs ∧ (p.assignBins n k bs).path = p.path ∧
    (p.assignBins n k bs).stock = p.stock ∧ (p.assignBins n k bs).carriage = p.carriage ∧
    (p.assignBins n k bs).conv = p.conv ∧ (p.assignBins n k bs).drawers = p.drawers ∧
    (p.assignBins n k bs).faults = p.faults ∧ (p.assignBins n k bs).out = p.out := by
  induction bs generalizing p k with
  | nil => simp [Part.assignBins]
  | cons b bs ih => simp [Part.assignBins, ih]

@[simp] theorem Part.grant_frame (p : Part) (j : Job) (rest : List Nat) :
    (p.grant j rest).now = p.now ∧ (p.grant j rest).lines = p.lines ∧ (p.grant j rest).ctl = p.ctl ∧
    (p.grant j rest).runs = p.runs ∧ (p.grant j rest).path = p.path ∧ (p.grant j rest).stock = p.stock ∧
    (p.grant j rest).carriage = p.carriage ∧ (p.grant j rest).conv = p.conv ∧ (p.grant j rest).drawers = p.drawers ∧
    (p.grant j rest).faults = p.faults := by
  simp [Part.grant]

@[simp] theorem Part.grantCheckN_frame (p : Part) (n : Nat) :
    (Part.grantCheckN n p).now = p.now ∧ (Part.grantCheckN n p).lines = p.lines ∧ (Part.grantCheckN n p).ctl = p.ctl ∧
    (Part.grantCheckN n p).runs = p.runs ∧ (Part.grantCheckN n p).path = p.path ∧ (Part.grantCheckN n p).stock = p.stock ∧
    (Part.grantCheckN n p).carriage = p.carriage ∧ (Part.grantCheckN n p).conv = p.conv ∧
    (Part.grantCheckN n p).drawers = p.drawers ∧ (Part.grantCheckN n p).faults = p.faults := by
  induction n generalizing p with
  | zero => simp [Part.grantCheckN]
  | succ n ih =>
    unfold Part.grantCheckN
    (repeat' split) <;> simp [ih]

@[simp] theorem Part.grantCheck_frame (p : Part) :
    p.grantCheck.now = p.now ∧ p.grantCheck.lines = p.lines ∧ p.grantCheck.ctl = p.ctl ∧ p.grantCheck.runs = p.runs ∧
    p.grantCheck.path = p.path ∧ p.grantCheck.stock = p.stock ∧ p.grantCheck.carriage = p.carriage ∧
    p.grantCheck.conv = p.conv ∧ p.grantCheck.drawers = p.drawers ∧ p.grantCheck.faults = p.faults := by
  simp [Part.grantCheck]

@[simp] theorem Part.testEnd_frame (p : Part) (n : Nat) :
    (p.testEnd n).now = p.now ∧ (p.testEnd n).lines = p.lines ∧ (p.testEnd n).ctl = p.ctl ∧ (p.testEnd n).runs = p.runs ∧
    (p.testEnd n).path = p.path ∧ (p.testEnd n).bins = p.bins ∧ (p.testEnd n).stock = p.stock ∧
    (p.testEnd n).carriage = p.carriage ∧ (p.testEnd n).conv = p.conv ∧ (p.testEnd n).drawers = p.drawers ∧
    (p.testEnd n).faults = p.faults := by
  unfold Part.testEnd
  (repeat' split) <;> simp

@[simp] theorem Part.freeBin_frame (p : Part) (b : Nat) (g : Tallies → Tallies) :
    (p.freeBin b g).now = p.now ∧ (p.freeBin b g).lines = p.lines ∧ (p.freeBin b g).ctl = p.ctl ∧
    (p.freeBin b g).runs = p.runs ∧ (p.freeBin b g).path = p.path ∧ (p.freeBin b g).stock = p.stock ∧
    (p.freeBin b g).carriage = p.carriage ∧ (p.freeBin b g).conv = p.conv ∧ (p.freeBin b g).drawers = p.drawers ∧
    (p.freeBin b g).faults = p.faults := by
  unfold Part.freeBin
  dsimp only
  split <;> simp

@[simp] theorem Part.releaseBin_frame (p : Part) (b : Nat) :
    (p.releaseBin b).now = p.now ∧ (p.releaseBin b).lines = p.lines ∧ (p.releaseBin b).ctl = p.ctl ∧
    (p.releaseBin b).runs = p.runs ∧ (p.releaseBin b).path = p.path ∧ (p.releaseBin b).stock = p.stock ∧
    (p.releaseBin b).carriage = p.carriage ∧ (p.releaseBin b).conv = p.conv ∧ (p.releaseBin b).drawers = p.drawers ∧
    (p.releaseBin b).faults = p.faults := by
  simp [Part.releaseBin]

@[simp] theorem Part.freeEmpty_frame (p : Part) (b : Nat) :
    (p.freeEmpty b).now = p.now ∧ (p.freeEmpty b).lines = p.lines ∧ (p.freeEmpty b).ctl = p.ctl ∧
    (p.freeEmpty b).runs = p.runs ∧ (p.freeEmpty b).path = p.path ∧ (p.freeEmpty b).stock = p.stock ∧
    (p.freeEmpty b).carriage = p.carriage ∧ (p.freeEmpty b).conv = p.conv ∧ (p.freeEmpty b).drawers = p.drawers ∧
    (p.freeEmpty b).faults = p.faults := by
  simp [Part.freeEmpty]

@[simp] theorem Part.completeBin_frame (p : Part) (pa : Pattern) (di : DisorderRule) (b : Nat) :
    (p.completeBin pa di b).now = p.now ∧ (p.completeBin pa di b).lines = p.lines ∧ (p.completeBin pa di b).runs = p.runs ∧
    (p.completeBin pa di b).stock = p.stock := by
  unfold Part.completeBin
  dsimp only
  (repeat' split) <;> simp

@[simp] theorem Part.closeTakesEffect_frame (p : Part) (n : Nat) :
    (p.closeTakesEffect n).now = p.now ∧ (p.closeTakesEffect n).lines = p.lines ∧ (p.closeTakesEffect n).runs = p.runs ∧
    (p.closeTakesEffect n).stock = p.stock := by
  have key : ∀ (pa : Pattern) (di : DisorderRule) (bs : List Nat) (q : Part),

      (bs.foldl (fun p b => p.completeBin pa di b) q).now = q.now ∧
      (bs.foldl (fun p b => p.completeBin pa di b) q).lines = q.lines ∧
      (bs.foldl (fun p b => p.completeBin pa di b) q).runs = q.runs ∧
      (bs.foldl (fun p b => p.completeBin pa di b) q).stock = q.stock := by
    intro pa di bs
    induction bs with
    | nil => simp
    | cons b bs ih => intro q; simpa using ih (q.completeBin pa di b)
  unfold Part.closeTakesEffect
  split <;> simp [key]

@[simp] theorem Part.runDeparted_frame (p : Part) (n : Nat) :
    (p.runDeparted n).now = p.now ∧ (p.runDeparted n).lines = p.lines ∧ (p.runDeparted n).runs = p.runs ∧
    (p.runDeparted n).stock = p.stock := by
  unfold Part.runDeparted
  (repeat' split) <;> simp

@[simp] theorem Part.runLeftSlot_frame (p : Part) (n : Nat) :
    (p.runLeftSlot n).now = p.now ∧ (p.runLeftSlot n).lines = p.lines ∧ (p.runLeftSlot n).ctl = p.ctl ∧
    (p.runLeftSlot n).runs = p.runs ∧ (p.runLeftSlot n).path = p.path ∧ (p.runLeftSlot n).bins = p.bins ∧
    (p.runLeftSlot n).stock = p.stock ∧ (p.runLeftSlot n).carriage = p.carriage ∧ (p.runLeftSlot n).conv = p.conv ∧
    (p.runLeftSlot n).drawers = p.drawers ∧ (p.runLeftSlot n).faults = p.faults := by
  unfold Part.runLeftSlot
  (repeat' split) <;> simp

@[simp] theorem Part.finishVoid_frame (p : Part) (b : Nat) :
    (p.finishVoid b).now = p.now ∧ (p.finishVoid b).lines = p.lines ∧ (p.finishVoid b).jobs = p.jobs ∧
    (p.finishVoid b).runs = p.runs ∧ (p.finishVoid b).stock = p.stock ∧ (p.finishVoid b).carriage = p.carriage := by
  simp [Part.finishVoid]

@[simp] theorem Part.tallyVoided_frame (p : Part) (b : Nat) :
    (p.tallyVoided b).now = p.now ∧ (p.tallyVoided b).lines = p.lines ∧ (p.tallyVoided b).ctl = p.ctl ∧
    (p.tallyVoided b).runs = p.runs ∧ (p.tallyVoided b).path = p.path ∧ (p.tallyVoided b).bins = p.bins ∧
    (p.tallyVoided b).stock = p.stock ∧ (p.tallyVoided b).carriage = p.carriage ∧ (p.tallyVoided b).conv = p.conv ∧
    (p.tallyVoided b).drawers = p.drawers ∧ (p.tallyVoided b).faults = p.faults ∧ (p.tallyVoided b).out = p.out := by
  simp [Part.tallyVoided]

@[simp] theorem Part.voidBin_frame (p : Part) (b : Nat) :
    (p.voidBin b).now = p.now ∧ (p.voidBin b).lines = p.lines ∧ (p.voidBin b).runs = p.runs ∧ (p.voidBin b).stock = p.stock := by
  unfold Part.voidBin
  dsimp only
  (repeat' split) <;> simp

@[simp] theorem Part.appendSheet_frame (p : Part) (b page c : Nat) :
    (p.appendSheet b page c).now = p.now ∧ (p.appendSheet b page c).lines = p.lines ∧
    (p.appendSheet b page c).runs = p.runs ∧ (p.appendSheet b page c).stock = p.stock ∧
    (p.appendSheet b page c).carriage = p.carriage := by
  unfold Part.appendSheet
  dsimp only
  (repeat' split) <;> simp

@[simp] theorem Part.releaseReservation_frame (p : Part) (b c : Nat) :
    (p.releaseReservation b c).now = p.now ∧ (p.releaseReservation b c).lines = p.lines ∧
    (p.releaseReservation b c).runs = p.runs ∧ (p.releaseReservation b c).stock = p.stock ∧
    (p.releaseReservation b c).carriage = p.carriage := by
  unfold Part.releaseReservation
  dsimp only
  (repeat' split) <;> simp

@[simp] theorem Part.promote_frame (p : Part) (r : Run) :
    (p.promote r).now = p.now ∧ (p.promote r).lines = p.lines ∧ (p.promote r).jobs = p.jobs ∧ (p.promote r).path = p.path ∧
    (p.promote r).bins = p.bins ∧ (p.promote r).stock = p.stock ∧ (p.promote r).carriage = p.carriage ∧
    (p.promote r).conv = p.conv ∧ (p.promote r).drawers = p.drawers ∧ (p.promote r).faults = p.faults := by
  simp [Part.promote]

@[simp] theorem Part.promotePending_frame (p : Part) :
    p.promotePending.now = p.now ∧ p.promotePending.lines = p.lines ∧ p.promotePending.jobs = p.jobs ∧
    p.promotePending.path = p.path ∧ p.promotePending.bins = p.bins ∧ p.promotePending.stock = p.stock ∧
    p.promotePending.carriage = p.carriage ∧ p.promotePending.conv = p.conv ∧ p.promotePending.drawers = p.drawers ∧
    p.promotePending.faults = p.faults := by
  unfold Part.promotePending
  split <;> simp

@[simp] theorem Part.completeAll_frame (p : Part) (rs : List Run) :
    (p.completeAll rs).now = p.now ∧ (p.completeAll rs).lines = p.lines ∧ (p.completeAll rs).runs = p.runs ∧
    (p.completeAll rs).stock = p.stock := by
  have raised : ∀ (rs : List Run) (q : Part),
      (rs.foldl (fun p r => p.raise r.done) q).now = q.now ∧ (rs.foldl (fun p r => p.raise r.done) q).lines = q.lines ∧
      (rs.foldl (fun p r => p.raise r.done) q).runs = q.runs ∧ (rs.foldl (fun p r => p.raise r.done) q).stock = q.stock := by
    intro rs
    induction rs with
    | nil => simp
    | cons r rs ih => intro q; simpa using ih (q.raise r.done)
  have told : ∀ (rs : List Run) (q : Part),
      (rs.foldl (fun p r => p.runDeparted r.job) q).now = q.now ∧
      (rs.foldl (fun p r => p.runDeparted r.job) q).lines = q.lines ∧
      (rs.foldl (fun p r => p.runDeparted r.job) q).runs = q.runs ∧
      (rs.foldl (fun p r => p.runDeparted r.job) q).stock = q.stock := by
    intro rs
    induction rs with
    | nil => simp
    | cons r rs ih => intro q; simpa using ih (q.runDeparted r.job)
  simp [Part.completeAll, raised, told]

@[simp] theorem Part.completeSettled_frame (p : Part) :
    p.completeSettled.now = p.now ∧ p.completeSettled.lines = p.lines ∧ p.completeSettled.stock = p.stock := by
  simp [Part.completeSettled]

@[simp] theorem Part.leaveSlot_frame (p : Part) (r : Run) :
    (p.leaveSlot r).now = p.now ∧ (p.leaveSlot r).lines = p.lines ∧ (p.leaveSlot r).stock = p.stock := by
  unfold Part.leaveSlot
  dsimp only
  split <;> simp

@[simp] theorem Part.assigned_frame (p : Part) :
    p.assigned.now = p.now ∧ p.assigned.lines = p.lines ∧ p.assigned.stock = p.stock := by
  unfold Part.assigned
  dsimp only
  (repeat' split) <;> simp

@[simp] theorem Part.reportSettled_frame (p : Part) (ref : Option RunRef) (g : RunRef → Run → Run) :
    (p.reportSettled ref g).now = p.now ∧ (p.reportSettled ref g).lines = p.lines ∧ (p.reportSettled ref g).stock = p.stock := by
  unfold Part.reportSettled
  split <;> simp

@[simp] theorem Part.withdrawPendingOf_frame (p : Part) (n : Nat) :
    (p.withdrawPendingOf n).1.now = p.now ∧ (p.withdrawPendingOf n).1.lines = p.lines ∧
    (p.withdrawPendingOf n).1.ctl = p.ctl ∧ (p.withdrawPendingOf n).1.jobs = p.jobs ∧
    (p.withdrawPendingOf n).1.path = p.path ∧ (p.withdrawPendingOf n).1.bins = p.bins ∧
    (p.withdrawPendingOf n).1.stock = p.stock ∧ (p.withdrawPendingOf n).1.carriage = p.carriage ∧
    (p.withdrawPendingOf n).1.conv = p.conv ∧ (p.withdrawPendingOf n).1.drawers = p.drawers ∧
    (p.withdrawPendingOf n).1.faults = p.faults ∧ (p.withdrawPendingOf n).1.out = p.out := by
  unfold Part.withdrawPendingOf
  (repeat' split) <;> simp

@[simp] theorem Part.reserve_frame (p : Part) (b c : Nat) :
    (p.reserve b c).now = p.now ∧ (p.reserve b c).lines = p.lines ∧ (p.reserve b c).ctl = p.ctl ∧
    (p.reserve b c).jobs = p.jobs ∧ (p.reserve b c).runs = p.runs ∧ (p.reserve b c).path = p.path ∧
    (p.reserve b c).stock = p.stock ∧ (p.reserve b c).carriage = p.carriage ∧ (p.reserve b c).conv = p.conv ∧
    (p.reserve b c).drawers = p.drawers ∧ (p.reserve b c).faults = p.faults ∧ (p.reserve b c).out = p.out := by
  simp [Part.reserve]

@[simp] theorem Part.recordTicket_frame (p : Part) (d : Decision) :
    (p.recordTicket d).now = p.now ∧ (p.recordTicket d).lines = p.lines ∧ (p.recordTicket d).stock = p.stock := by
  unfold Part.recordTicket
  dsimp only
  split <;> simp

@[simp] theorem Part.deposit_frame (p : Part) (b : Nat) (t : Ticket) (rest : List Ticket) :
    (p.deposit b t rest).now = p.now ∧ (p.deposit b t rest).lines = p.lines ∧ (p.deposit b t rest).stock = p.stock := by
  simp [Part.deposit]

@[simp] theorem Part.purgeSheet_frame (p : Part) (t : Ticket) (rest : List Ticket) :
    (p.purgeSheet t rest).now = p.now ∧ (p.purgeSheet t rest).lines = p.lines ∧ (p.purgeSheet t rest).stock = p.stock := by
  simp [Part.purgeSheet]

@[simp] theorem Part.loseReservation_frame (p : Part) (t : Ticket) :
    (p.loseReservation t).now = p.now ∧ (p.loseReservation t).lines = p.lines ∧ (p.loseReservation t).runs = p.runs ∧
    (p.loseReservation t).stock = p.stock ∧ (p.loseReservation t).carriage = p.carriage := by
  unfold Part.loseReservation
  split <;> simp

@[simp] theorem Part.reportLost_frame (p : Part) (t : Ticket) :
    (p.reportLost t).now = p.now ∧ (p.reportLost t).lines = p.lines ∧ (p.reportLost t).ctl = p.ctl ∧
    (p.reportLost t).jobs = p.jobs ∧ (p.reportLost t).path = p.path ∧ (p.reportLost t).bins = p.bins ∧
    (p.reportLost t).stock = p.stock ∧ (p.reportLost t).carriage = p.carriage ∧ (p.reportLost t).conv = p.conv ∧
    (p.reportLost t).drawers = p.drawers ∧ (p.reportLost t).faults = p.faults ∧ (p.reportLost t).out = p.out := by
  unfold Part.reportLost
  split <;> simp

@[simp] theorem Part.loseTickets_frame (p : Part) (m : Mode) :
    (p.loseTickets m).now = p.now ∧ (p.loseTickets m).lines = p.lines ∧ (p.loseTickets m).stock = p.stock := by
  have freed : ∀ (ts : List Ticket) (q : Part),
      (ts.foldl Part.loseReservation q).now = q.now ∧ (ts.foldl Part.loseReservation q).lines = q.lines ∧
      (ts.foldl Part.loseReservation q).stock = q.stock := by
    intro ts
    induction ts with
    | nil => simp
    | cons t ts ih => intro q; simpa using ih (q.loseReservation t)
  have told : ∀ (ts : List Ticket) (q : Part),
      (ts.foldl Part.reportLost q).now = q.now ∧ (ts.foldl Part.reportLost q).lines = q.lines ∧
      (ts.foldl Part.reportLost q).stock = q.stock := by
    intro ts
    induction ts with
    | nil => simp
    | cons t ts ih => intro q; simpa using ih (q.reportLost t)
  unfold Part.loseTickets
  dsimp only
  split <;> simp [freed, told]

@[simp] theorem Part.enterService_frame (p : Part) (c : ModeCause) (k : Option FaultKind) :
    (p.enterService c k).now = p.now ∧ (p.enterService c k).lines = p.lines ∧ (p.enterService c k).stock = p.stock := by
  simp [Part.enterService]

@[simp] theorem Part.conveyorHalt_frame (p : Part) :
    p.conveyorHalt.now = p.now ∧ p.conveyorHalt.lines = p.lines ∧ p.conveyorHalt.ctl = p.ctl ∧ p.conveyorHalt.jobs = p.jobs ∧
    p.conveyorHalt.runs = p.runs ∧ p.conveyorHalt.path = p.path ∧ p.conveyorHalt.bins = p.bins ∧
    p.conveyorHalt.stock = p.stock ∧ p.conveyorHalt.carriage = p.carriage ∧ p.conveyorHalt.drawers = p.drawers ∧
    p.conveyorHalt.faults = p.faults ∧ p.conveyorHalt.out = p.out := by
  simp [Part.conveyorHalt]

@[simp] theorem Part.halt_frame (p : Part) (k : FaultKind) :
    (p.halt k).now = p.now ∧ (p.halt k).lines = p.lines ∧ (p.halt k).jobs = p.jobs ∧ (p.halt k).runs = p.runs ∧
    (p.halt k).bins = p.bins ∧ (p.halt k).stock = p.stock ∧ (p.halt k).drawers = p.drawers ∧ (p.halt k).faults = p.faults := by
  simp [Part.halt]

@[simp] theorem Part.abandonResume_frame (p : Part) :
    p.abandonResume.now = p.now ∧ p.abandonResume.lines = p.lines ∧ p.abandonResume.jobs = p.jobs ∧
    p.abandonResume.runs = p.runs ∧ p.abandonResume.path = p.path ∧ p.abandonResume.bins = p.bins ∧
    p.abandonResume.stock = p.stock ∧ p.abandonResume.drawers = p.drawers ∧ p.abandonResume.faults = p.faults ∧
    p.abandonResume.out = p.out := by
  unfold Part.abandonResume
  dsimp only
  split <;> simp

@[simp] theorem Part.intrude_frame (p : Part) (c : ModeCause) :
    (p.intrude c).now = p.now ∧ (p.intrude c).lines = p.lines ∧ (p.intrude c).stock = p.stock := by
  unfold Part.intrude
  split <;> simp

@[simp] theorem Part.endStarting_frame (p : Part) :
    p.endStarting.now = p.now ∧ p.endStarting.lines = p.lines ∧ p.endStarting.stock = p.stock := by
  have queued : ∀ (bs : List Nat) (q : Part),
      (bs.foldl Part.appendEject q).now = q.now ∧ (bs.foldl Part.appendEject q).lines = q.lines ∧
      (bs.foldl Part.appendEject q).stock = q.stock := by
    intro bs
    induction bs with
    | nil => simp
    | cons b bs ih => intro q; simpa using ih (q.appendEject b)
  unfold Part.endStarting
  dsimp only
  split <;> simp [queued]

@[simp] theorem Part.completeResume_frame (p : Part) :
    p.completeResume.now = p.now ∧ p.completeResume.lines = p.lines ∧ p.completeResume.runs = p.runs ∧
    p.completeResume.stock = p.stock := by
  simp [Part.completeResume]

@[simp] theorem Part.homed_frame (p : Part) :
    p.homed.now = p.now ∧ p.homed.lines = p.lines ∧ p.homed.stock = p.stock := by
  unfold Part.homed
  dsimp only
  (repeat' split) <;> simp

@[simp] theorem Part.recordArrival_frame (p : Part) (t : Trip) :
    (p.recordArrival t).now = p.now ∧ (p.recordArrival t).lines = p.lines ∧ (p.recordArrival t).ctl = p.ctl ∧
    (p.recordArrival t).jobs = p.jobs ∧ (p.recordArrival t).runs = p.runs ∧ (p.recordArrival t).path = p.path ∧
    (p.recordArrival t).bins = p.bins ∧ (p.recordArrival t).stock = p.stock ∧ (p.recordArrival t).carriage = p.carriage ∧
    (p.recordArrival t).faults = p.faults ∧ (p.recordArrival t).out = p.out := by
  unfold Part.recordArrival
  split <;> simp

@[simp] theorem Part.endTrip_frame (p : Part) (t : Trip) :
    (p.endTrip t).now = p.now ∧ (p.endTrip t).lines = p.lines ∧ (p.endTrip t).ctl = p.ctl ∧ (p.endTrip t).runs = p.runs ∧
    (p.endTrip t).stock = p.stock ∧ (p.endTrip t).carriage = p.carriage := by
  unfold Part.endTrip
  dsimp only
  split <;> simp

@[simp] theorem Part.deliver_frame (p : Part) (t : Trip) :
    (p.deliver t).now = p.now ∧ (p.deliver t).lines = p.lines ∧ (p.deliver t).ctl = p.ctl ∧ (p.deliver t).runs = p.runs ∧
    (p.deliver t).stock = p.stock ∧ (p.deliver t).carriage = p.carriage := by
  simp [Part.deliver]

@[simp] theorem Part.loseSet_frame (p : Part) (t : Trip) :
    (p.loseSet t).now = p.now ∧ (p.loseSet t).lines = p.lines ∧ (p.loseSet t).ctl = p.ctl ∧ (p.loseSet t).runs = p.runs ∧
    (p.loseSet t).stock = p.stock ∧ (p.loseSet t).carriage = p.carriage := by
  simp [Part.loseSet]

@[simp] theorem Part.forgetSet_frame (p : Part) (b : Nat) :
    (p.forgetSet b).now = p.now ∧ (p.forgetSet b).lines = p.lines ∧ (p.forgetSet b).ctl = p.ctl ∧
    (p.forgetSet b).jobs = p.jobs ∧ (p.forgetSet b).runs = p.runs ∧ (p.forgetSet b).path = p.path ∧
    (p.forgetSet b).bins = p.bins ∧ (p.forgetSet b).stock = p.stock ∧ (p.forgetSet b).drawers = p.drawers ∧
    (p.forgetSet b).faults = p.faults ∧ (p.forgetSet b).out = p.out := by
  simp [Part.forgetSet]

@[simp] theorem Part.auditBin_frame (p : Part) (a : Audit) (b : Nat) :
    (p.auditBin a b).1.now = p.now ∧ (p.auditBin a b).1.lines = p.lines ∧ (p.auditBin a b).1.runs = p.runs ∧
    (p.auditBin a b).1.stock = p.stock := by
  unfold Part.auditBin
  dsimp only
  (repeat' split) <;> simp

@[simp] theorem Part.audit_frame (p : Part) :
    p.audit.1.now = p.now ∧ p.audit.1.lines = p.lines ∧ p.audit.1.runs = p.runs ∧ p.audit.1.stock = p.stock := by
  have key : ∀ (bs : List Nat) (r : Part × Audit),
      (bs.foldl (fun r b => r.1.auditBin r.2 b) r).1.now = r.1.now ∧
      (bs.foldl (fun r b => r.1.auditBin r.2 b) r).1.lines = r.1.lines ∧
      (bs.foldl (fun r b => r.1.auditBin r.2 b) r).1.runs = r.1.runs ∧
      (bs.foldl (fun r b => r.1.auditBin r.2 b) r).1.stock = r.1.stock := by
    intro bs
    induction bs with
    | nil => simp
    | cons b bs ih => intro r; simpa using ih (r.1.auditBin r.2 b)
  unfold Part.audit
  exact key _ _

@[simp] theorem Part.startProving_frame (p : Part) :
    p.startProving.now = p.now ∧ p.startProving.lines = p.lines ∧ p.startProving.ctl = p.ctl ∧ p.startProving.jobs = p.jobs ∧
    p.startProving.runs = p.runs ∧ p.startProving.path = p.path ∧ p.startProving.bins = p.bins ∧
    p.startProving.stock = p.stock ∧ p.startProving.carriage = p.carriage ∧ p.startProving.drawers = p.drawers ∧
    p.startProving.faults = p.faults ∧ p.startProving.out = p.out := by
  simp [Part.startProving]

@[simp] theorem Part.conveyorCheck_frame (p : Part) :
    p.conveyorCheck.1.now = p.now ∧ p.conveyorCheck.1.lines = p.lines ∧ p.conveyorCheck.1.ctl = p.ctl ∧
    p.conveyorCheck.1.runs = p.runs ∧ p.conveyorCheck.1.stock = p.stock ∧ p.conveyorCheck.1.carriage = p.carriage := by
  unfold Part.conveyorCheck
  dsimp only
  (repeat' split) <;> simp

@[simp] theorem Part.returnHeld_frame (p : Part) (b : Nat) :
    (p.returnHeld b).now = p.now ∧ (p.returnHeld b).lines = p.lines ∧ (p.returnHeld b).ctl = p.ctl ∧
    (p.returnHeld b).jobs = p.jobs ∧ (p.returnHeld b).runs = p.runs ∧ (p.returnHeld b).path = p.path ∧
    (p.returnHeld b).stock = p.stock ∧ (p.returnHeld b).conv = p.conv ∧ (p.returnHeld b).drawers = p.drawers := by
  simp [Part.returnHeld]

@[simp] theorem Part.giveUp_frame (p : Part) (b : Nat) :
    (p.giveUp b).now = p.now ∧ (p.giveUp b).lines = p.lines ∧ (p.giveUp b).jobs = p.jobs ∧ (p.giveUp b).runs = p.runs ∧
    (p.giveUp b).stock = p.stock ∧ (p.giveUp b).carriage = p.carriage := by
  simp [Part.giveUp]

@[simp] theorem Part.settleHeld_frame (p : Part) :
    p.settleHeld.1.now = p.now ∧ p.settleHeld.1.lines = p.lines ∧ p.settleHeld.1.jobs = p.jobs ∧
    p.settleHeld.1.runs = p.runs ∧ p.settleHeld.1.stock = p.stock := by
  unfold Part.settleHeld
  dsimp only
  (repeat' split) <;> simp

end Sys2Proof.Machine
end

