-- ==== Sys2Proof/Laws/Checks.lean ====
section
/-! SUPPORT. When a check does nothing: the take check, the choice check, waking, and the examination of the idle condition. -/

namespace Sys2Proof.Machine

@[simp] theorem Part.unidled_frame (p : Part) :
    p.unidled.now = p.now ∧ p.unidled.lines = p.lines ∧ p.unidled.jobs = p.jobs ∧ p.unidled.runs = p.runs ∧
    p.unidled.path = p.path ∧ p.unidled.bins = p.bins ∧ p.unidled.stock = p.stock ∧ p.unidled.carriage = p.carriage ∧
    p.unidled.conv = p.conv ∧ p.unidled.drawers = p.drawers ∧ p.unidled.faults = p.faults ∧ p.unidled.out = p.out := by
  unfold Part.unidled
  split <;> simp

@[simp] theorem Part.unidled_mode (p : Part) : p.unidled.ctl.mode = p.ctl.mode := by
  unfold Part.unidled
  split <;> simp

/-- R140: the idle condition as a proposition. -/
theorem Part.idle_iff (p : Part) : p.idle = true ↔ p.IdleCond := by
  unfold Part.idle
  constructor
  · intro h
    simp only [Bool.and_eq_true, Option.isNone_iff_eq_none, List.isEmpty_iff, beq_iff_eq] at h
    obtain ⟨⟨⟨⟨⟨⟨⟨h1, h2⟩, h3⟩, h4⟩, h5⟩, h6⟩, h7⟩, h8⟩ := h
    exact ⟨h1, h2, h3, h4, h5, h6, h7, h8⟩
  · rintro ⟨h1, h2, h3, h4, h5, h6, h7, h8⟩
    simp [*]

/-- R140, R141: where the idle condition does not hold, its examination stops the timer. -/
theorem Part.examineIdle_of_not {p : Part} (h : p.ctl.mode = .automatic → ¬ p.IdleCond) : p.examineIdle = p.unidled := by
  unfold Part.examineIdle Part.unidled
  split
  · next hm =>
    have : ¬ p.idle = true := fun hi => h hm (p.idle_iff.1 hi)
    simp only [this]
    rfl
  · rfl

/-- Outside AUTOMATIC the idle condition is not examined. -/
theorem Part.examineIdle_of_ne {p : Part} (h : p.ctl.mode ≠ .automatic) : p.examineIdle = p := by
  unfold Part.examineIdle
  rw [if_neg h]

theorem Part.AtWork.examineIdle {p : Part} (h : p.AtWork) : p.examineIdle = p.unidled :=
  Part.examineIdle_of_not fun hm hi => (h hm).1 hi.carriage

/-- R102: a conveyor with a trip, or a mode other than AUTOMATIC, makes no choice check. -/
theorem Part.choiceCheck_of_not {p : Part} (h : p.ctl.mode = .automatic → p.conv.state ≠ .idle) : p.choiceCheck = p := by
  unfold Part.choiceCheck
  rw [if_neg]
  rintro ⟨h1, h2⟩
  exact h h2 h1

/-- R88: a carriage at work, or a mode other than AUTOMATIC, makes no take check. -/
theorem Part.takeCheck_of_not {p : Part} (h : p.ctl.mode = .automatic → p.carriage.state ≠ .idle) : p.takeCheck = p := by
  unfold Part.takeCheck
  generalize p.carriage.queue.length + 2 = n
  cases n with
  | zero => rfl
  | succ n =>
    unfold Part.takeCheckN
    rw [if_neg]
    rintro ⟨h1, h2⟩
    exact h h2 h1

theorem Part.AtWork.choiceCheck {p : Part} (h : p.AtWork) : p.choiceCheck = p :=
  Part.choiceCheck_of_not fun hm => (h hm).2

theorem Part.AtWork.takeCheck {p : Part} (h : p.AtWork) : p.takeCheck = p :=
  Part.takeCheck_of_not fun hm => (h hm).1

/-- R142: only PARKED wakes. -/
theorem Part.wake_of_ne {p : Part} (h : p.ctl.mode ≠ .parked) : p.wake = p := by
  unfold Part.wake
  rw [if_neg h]

end Sys2Proof.Machine
end

