-- ==== Sys2Proof/Laws/Operands.lean ====
section
/-! SUPPORT. Fields written and read back (11 section 11.5). -/

namespace Sys2Proof.Machine

theorem wordAt_putWord {n : Nat} (h : n ≤ 65535) (f : List Byte) : wordAt (putWord n ++ f) 0 = n := by
  simp only [wordAt, byteAt, putWord, List.cons_append, List.getD_cons_zero, List.getD_cons_succ, BitVec.toNat_ofNat]
  omega

theorem byteAt_putByte {n : Nat} (h : n ≤ 255) (f : List Byte) : byteAt (putByte n ++ f) 0 = n := by
  simp only [byteAt, putByte, List.cons_append, List.getD_cons_zero, BitVec.toNat_ofNat]
  omega

@[simp] theorem JobOpenFields.length_bytes (j : JobOpenFields) : j.bytes.length = 9 := by
  simp [JobOpenFields.bytes, putWord, putByte]

/-- A JOB_OPEN's fields, written and read back. -/
theorem jobOpenFields_bytes {j : JobOpenFields} (h1 : j.number ≤ 65535) (h2 : j.dest ≤ 65535) (h3 : j.copies ≤ 255)
    (h4 : j.priority ≤ 255) (h5 : j.pattern ≤ 255) (h6 : j.disorder ≤ 255) (h7 : j.wireRule ≤ 255) :
    jobOpenFields j.bytes = j := by
  obtain ⟨n, d, c, a, b, e, w⟩ := j
  simp only at *
  simp only [jobOpenFields, JobOpenFields.bytes, wordAt, byteAt, putWord, putByte, List.cons_append, List.nil_append,
    List.getD_cons_zero, List.getD_cons_succ, BitVec.toNat_ofNat, JobOpenFields.mk.injEq]
  refine ⟨?_, ?_, ?_, ?_, ?_, ?_, ?_⟩ <;> omega

/-- R5: the JOB_OPEN that opens a fresh job record gives that record. -/
theorem Job.record_openFields {j : Job} (h : j.Fresh) : (jobOpenFields j.openFields).record = some j := by
  obtain ⟨⟨⟨n1, n2⟩, ⟨d1, d2⟩, ⟨c1, c2⟩⟩, hs, hb, hc, ht⟩ := h
  obtain ⟨n, d, c, pr, pa, di, wr, st, bins, cl, ta⟩ := j
  simp only at *
  subst hs hb hc ht
  rw [Job.openFields, jobOpenFields_bytes n2 (by simp only; omega) (by simp only; omega) (by cases pr <;> exact Nat.le_of_ble_eq_true rfl)
    (by cases pa <;> exact Nat.le_of_ble_eq_true rfl) (by cases di <;> exact Nat.le_of_ble_eq_true rfl) (by cases wr <;> exact Nat.le_of_ble_eq_true rfl)]
  have hn : ¬ (n = 0 ∨ c = 0 ∨ 48 < c ∨ d = 0 ∨ 4095 < d) := by omega
  simp only [JobOpenFields.record, if_neg hn]
  cases pr <;> cases pa <;> cases di <;> cases wr <;> rfl

@[simp] theorem RunPostFields.length_bytes (r : RunPostFields) : r.bytes.length = 6 + r.copies.length := by
  simp [RunPostFields.bytes, putWord, putByte]
  omega

/-- A RUN_POST's fields in range, written and read back. -/
theorem runPostFields_bytes {r : RunPostFields} (h : r.InRange) : runPostFields r.bytes = r := by
  obtain ⟨h1, h2, h3, h4, h5, h6⟩ := h
  obtain ⟨j, p, s, f, c, ks⟩ := r
  simp only at *
  simp only [runPostFields, RunPostFields.bytes, wordAt, byteAt, putWord, putByte, List.cons_append, List.nil_append,
    List.getD_cons_zero, List.getD_cons_succ, BitVec.toNat_ofNat, List.drop_succ_cons, List.drop_zero, List.map_map,
    RunPostFields.mk.injEq]
  refine ⟨by omega, by omega, by omega, by omega, by omega, ?_⟩
  conv => rhs; rw [← List.map_id ks]
  refine List.map_congr_left fun k hk => ?_
  have := h6 k hk
  simp only [Function.comp, BitVec.toNat_ofNat, id]
  omega

/-- The list count of a RUN_POST's fields in range. -/
theorem RunPostFields.count_bytes {r : RunPostFields} (h : r.InRange) : byteAt r.bytes 5 = r.copies.length := by
  have := congrArg RunPostFields.count (runPostFields_bytes h)
  rw [h.count] at this
  exact this

end Sys2Proof.Machine
end

