-- ==== Sys2Proof/Laws/Jobs.lean ====
section
/-! SUPPORT. What a grant does (R8): the bins it chooses and the records it gives them; and what the release of a bin does
(R2, R69). -/

namespace Sys2Proof.Machine

theorem mem_allBins {b : Nat} : b ∈ allBins ↔ 1 ≤ b ∧ b ≤ 48 := by
  simp only [allBins, Config.numBins, List.mem_range'_1]
  omega

theorem allBins_nodup : allBins.Nodup := by decide

theorem binOk_iff {b : Nat} : binOk b = true ↔ 1 ≤ b ∧ b ≤ 48 := by
  simp [binOk, Config.numBins]

theorem Part.mem_freeBins {p : Part} {b : Nat} : b ∈ p.freeBins ↔ p.isFree b = true := by
  simp only [Part.freeBins, List.mem_filter, mem_allBins, and_iff_right_iff_imp]
  intro h
  simp only [Part.isFree, Bool.and_eq_true] at h
  exact binOk_iff.1 h.1

theorem Part.freeBins_nodup (p : Part) : p.freeBins.Nodup := allBins_nodup.filter _

/-- R8: where enough bins are FREE, as many distinct FREE bins as copies are chosen. -/
theorem Part.chooseBins_spec (p : Part) {n : Nat} (h : n ≤ p.freeBins.length) :
    (p.chooseBins n).length = n ∧ (p.chooseBins n).Nodup ∧ ∀ b ∈ p.chooseBins n, p.isFree b = true := by
  unfold Part.chooseBins
  split
  · next b hb =>
    have := List.find?_some hb
    simp only [List.all_eq_true] at this
    exact ⟨by simp, List.nodup_range', this⟩
  · refine ⟨by simp [h], (p.freeBins_nodup.sublist (List.take_sublist ..)), fun b hb => ?_⟩
    exact Part.mem_freeBins.1 (List.mem_of_mem_take hb)

/-- R8: the FREE bins stand in ascending order. -/
theorem Part.freeBins_sorted (p : Part) : p.freeBins.Pairwise (· < ·) :=
  (List.pairwise_lt_range' (s := 1) (n := Config.numBins) (step := 1)).filter _

/-- R8: where enough bins are FREE, a grant takes the lowest block of FREE bins that holds the copies, else the lowest FREE
bins. -/
theorem Part.chooseBins_takes (p : Part) {n : Nat} (h : n ≤ p.freeBins.length) : p.GrantTakes n (p.chooseBins n) := by
  have range (b : Nat) (h : p.isFree b = true) : 1 ≤ b ∧ b ≤ 48 := by
    simp only [Part.isFree, Bool.and_eq_true] at h
    exact binOk_iff.1 h.1
  constructor
  · intro b hb hmin
    rcases Nat.eq_zero_or_pos n with rfl | hn
    · unfold Part.chooseBins; split <;> simp
    unfold Part.chooseBins
    have hb' : (List.range' b n).all p.isFree = true := by
      simp only [List.all_eq_true, List.mem_range'_1]
      intro c hc
      have := hb (c - b) (by omega)
      rwa [show b + (c - b) = c by omega] at this
    split
    · next c hc =>
      have hall := List.find?_some hc
      simp only [List.all_eq_true, List.mem_range'_1] at hall
      have h1 : b ≤ c := hmin c fun i hi => hall (c + i) (by omega)
      obtain ⟨_, xs, ys, hl, hx⟩ := List.find?_eq_some_iff_append.1 hc
      have hmem : b ∈ allBins := mem_allBins.2 (range b (hb 0 hn))
      have hs : (xs ++ c :: ys).Pairwise (· < ·) := by
        rw [← hl]; exact List.pairwise_lt_range' (s := 1) (n := Config.numBins) (step := 1)
      rw [hl] at hmem
      rcases List.mem_append.1 hmem with hm | hm
      · exact absurd hb' (by simpa [and_assoc] using hx b hm)
      · rcases List.mem_cons.1 hm with rfl | hm
        · rfl
        · have := (List.pairwise_cons.1 (List.pairwise_append.1 hs).2.1).1 b hm
          omega
    · next hc =>
      exact absurd hb' (List.find?_eq_none.1 hc b (mem_allBins.2 (range b (hb 0 hn))))
  · intro hno
    have hc : p.chooseBins n = p.freeBins.take n := by
      unfold Part.chooseBins
      split
      · next c hc =>
        have hall := List.find?_some hc
        simp only [List.all_eq_true, List.mem_range'_1] at hall
        obtain ⟨i, hi, hf⟩ := hno c
        rw [hall (c + i) (by omega)] at hf
        cases hf
      · rfl
    rw [hc]
    refine ⟨by simp [h], p.freeBins_sorted.sublist (List.take_sublist ..),
      fun b hb => Part.mem_freeBins.1 (List.mem_of_mem_take hb), fun b hb c hc hlt => ?_⟩
    have hm : c ∈ p.freeBins.take n ++ p.freeBins.drop n := by
      rw [List.take_append_drop]; exact Part.mem_freeBins.2 hc
    rcases List.mem_append.1 hm with hm | hm
    · exact hm
    · have hs := p.freeBins_sorted
      rw [← List.take_append_drop n p.freeBins] at hs
      have := (List.pairwise_append.1 hs).2.2 b hb c hm
      omega

/-- R8, R59: the `i`-th chosen bin gathers copy `k + i`; the other bins are as they were. -/
theorem Part.bin_assignBins (n : Nat) (bs : List Nat) (p : Part) (k : Nat) (hn : bs.Nodup) (hb : ∀ b ∈ bs, binOk b = true) :
    (∀ (i b : Nat), bs[i]? = some b →
      (p.assignBins n k bs).bin b = { state := .assigned, set := { job := some n, copy := some (k + i) } }) ∧
    ∀ b, b ∉ bs → (p.assignBins n k bs).bin b = p.bin b := by
  induction bs generalizing p k with
  | nil => simp [Part.assignBins]
  | cons c bs ih =>
    obtain ⟨hc, hn⟩ := List.nodup_cons.1 hn
    obtain ⟨ih1, ih2⟩ := ih (p.setBin c { state := .assigned, set := { job := some n, copy := some k } }) (k + 1) hn
      fun b hb' => hb b (List.mem_cons_of_mem _ hb')
    constructor
    · intro i b hi
      cases i with
      | zero =>
        simp only [List.getElem?_cons_zero, Option.some.injEq] at hi
        subst hi
        rw [Part.assignBins, ih2 c hc, Part.bin_setBin_self _ _ (hb c (List.mem_cons_self ..))]
        rfl
      | succ i =>
        simp only [List.getElem?_cons_succ] at hi
        rw [Part.assignBins, ih1 i b hi]
        congr 3
        omega
    · intro b hb'
      simp only [List.mem_cons, not_or] at hb'
      rw [Part.assignBins, ih2 b hb'.2, Part.bin_setBin_ne _ _ hb'.1]

/-! ## Release -/

@[simp] theorem Job.release_frame (j : Job) (b : Nat) :
    (j.release b).number = j.number ∧ (j.release b).dest = j.dest ∧ (j.release b).copies = j.copies ∧
    (j.release b).priority = j.priority ∧ (j.release b).wireRule = j.wireRule ∧ (j.release b).state = j.state ∧
    (j.release b).tallies = j.tallies := ⟨rfl, rfl, rfl, rfl, rfl, rfl, rfl⟩

@[simp] theorem Job.tally_frame (j : Job) (f : Tallies → Tallies) :
    (j.tally f).number = j.number ∧ (j.tally f).dest = j.dest ∧ (j.tally f).copies = j.copies ∧
    (j.tally f).priority = j.priority ∧ (j.tally f).wireRule = j.wireRule ∧ (j.tally f).state = j.state ∧
    (j.tally f).bins = j.bins ∧ (j.tally f).tallies = f j.tallies := ⟨rfl, rfl, rfl, rfl, rfl, rfl, rfl, rfl⟩

/-- R7: with no job waiting for bins nothing is granted. -/
theorem Part.grantCheck_of_empty {p : Part} (h : p.jobs.queue = []) : p.grantCheck = p := by
  unfold Part.grantCheck
  rw [h]
  rfl

/-- R17, R18: a job that neither finishes nor is cancelled goes on; so does one with a bin still held, or with a set on the
conveyor. -/
theorem Part.endOf_none {p : Part} {j : Job}
    (h : j.state ∈ [JobState.finishing, .cancelling] →
      (∃ e ∈ j.bins, e.released = false) ∨ p.onConveyor j.number = true ∨
        (j.state = .cancelling ∧ p.hasStartedRun j.number = true)) :
    p.endOf j = none := by
  unfold Part.endOf
  split
  · next hr =>
    simp only [Bool.and_eq_true, Bool.not_eq_true', Job.allReleased, List.all_eq_true] at hr
    split
    all_goals first | rfl | skip
    · next hs =>
      obtain ⟨e, he, h1⟩ | h1 | ⟨h1, -⟩ := h (by simp [hs])
      · simp [hr.1 e he] at h1
      · simp [hr.2] at h1
      · simp [hs] at h1
    · next hs =>
      obtain ⟨e, he, h1⟩ | h1 | ⟨-, h1⟩ := h (by simp [hs])
      · simp [hr.1 e he] at h1
      · simp [hr.2] at h1
      · simp [h1]
  · rfl

/-- R17: the test for the end of a job that goes on. -/
theorem Part.testEnd_of_none {p : Part} {n : Nat} (h : ∀ j, p.job? n = some j → p.endOf j = none) : p.testEnd n = p := by
  unfold Part.testEnd
  split
  · rfl
  · next j hj => rw [h j hj]

/-- The job records after the release of bin `b` with a change of the tallies. -/
def Part.releasedJobs (p : Part) (b : Nat) (f : Tallies → Tallies) : List Job :=
  p.jobs.jobs.map fun j => if (p.bin b).set.job = some j.number then (j.release b).tally f else j

/-- R2, R69, R71: a bin is freed, no job waits for bins and none ends. -/
theorem Part.freeBin_eq {p : Part} (b : Nat) (f : Tallies → Tallies) (hq : p.jobs.queue = [])
    (h : ∀ j ∈ p.jobs.jobs, (p.bin b).set.job = some j.number → j.state ∈ [JobState.finishing, .cancelling] →
      (∃ e ∈ j.bins, e.released = false ∧ e.bin ≠ b) ∨ p.onConveyor j.number = true ∨
        (j.state = .cancelling ∧ p.hasStartedRun j.number = true)) :
    p.freeBin b f = { p.setBin b Bin.free with jobs := { p.jobs with jobs := p.releasedJobs b f } } := by
  unfold Part.freeBin Part.releasedJobs Part.binJob
  dsimp only
  cases hn : (p.bin b).set.job with
  | none =>
    rw [Part.grantCheck_of_empty (by simpa using hq)]
    simp only [reduceCtorEq, if_false, List.map_id']
    rw [show p.jobs = (p.setBin b Bin.free).jobs by simp]
  | some n =>
    have e : (p.setBin b Bin.free).modJob n (fun j => (j.release b).tally f) =
        { p.setBin b Bin.free with
          jobs := { p.jobs with jobs := p.jobs.jobs.map fun j => if some n = some j.number then (j.release b).tally f else j } } := by
      simp only [Part.modJob, Part.setBin_jobs, Option.some.injEq, eq_comm]
    simp only [e]
    rw [Part.testEnd_of_none]
    · exact Part.grantCheck_of_empty (p := { p.setBin b Bin.free with jobs := _ }) hq
    intro j' hj'
    have hm := List.mem_of_find?_eq_some hj'
    have hnum : j'.number = n := by simpa using List.find?_some hj'
    obtain ⟨j, hj, rfl⟩ := List.mem_map.1 hm
    have hjn : n = j.number := by
      by_cases hc : some n = some j.number
      · exact Option.some.inj hc
      · rw [if_neg hc] at hnum
        exact hnum.symm
    subst hjn
    refine Part.endOf_none fun hs => ?_
    simp only [if_true] at hs ⊢
    obtain ⟨e, he, h1, h2⟩ | h1 | ⟨h1, h2⟩ := h j hj hn hs
    · exact .inl ⟨e, List.mem_map.2 ⟨e, he, if_neg h2⟩, h1⟩
    · refine .inr (.inl ?_)
      simpa [Part.onConveyor] using h1
    · refine .inr (.inr ⟨h1, ?_⟩)
      simpa [Part.hasStartedRun] using h2

end Sys2Proof.Machine
end

