-- ==== Sys2Proof/Laws/Audit.lean ====
section
/-! SUPPORT. What the RESUME audit does (R70 to R72), bin by bin and as a whole. -/

namespace Sys2Proof.Machine

/-! ## The audit of one bin -/

/-- The set in bin `b` is complete and its sensor reads empty (R71). -/
def Part.isGone (p : Part) (occ : Occupancy) (b : Nat) : Bool :=
  [BinState.stitchWait, .stitching, .ejectWait].contains (p.bin b).state && occ.bins.getLsbD (b - 1) == false

/-- Bin `b` is ORPHAN and its sensor reads empty (R71). -/
def Part.isOrphanGone (p : Part) (occ : Occupancy) (b : Nat) : Bool :=
  [BinState.orphan].contains (p.bin b).state && occ.bins.getLsbD (b - 1) == false

/-- Bin `b` is FREE and its sensor reads occupied (R72). -/
def Part.isFound (p : Part) (occ : Occupancy) (b : Nat) : Bool :=
  [BinState.free].contains (p.bin b).state && occ.bins.getLsbD (b - 1) == true

/-- The record of bin `b` after its audit. -/
def Part.auditedBin (p : Part) (occ : Occupancy) (b : Nat) : Bin :=
  match (p.bin b).state, occ.bins.getLsbD (b - 1) with
  | .filling, false =>
    { state := .assigned, set := { (p.bin b).set with pages := [], stack := 0, disordered := false, emptied := true } }
  | .stitchWait, false | .stitching, false | .ejectWait, false | .orphan, false => Bin.free
  | .assigned, true => { p.bin b with set := { (p.bin b).set with foreign := true } }
  | .free, true => Bin.orphan
  | _, _ => p.bin b

/-- The record of a job after the audit of bin `b`. -/
def Part.auditedJob (p : Part) (occ : Occupancy) (j : Job) (b : Nat) : Job :=
  if (p.bin b).set.job = some j.number then
    if p.isGone occ b then (j.release b).countGone (p.bin b).set.void
    else if p.isOrphanGone occ b then j.release b else j
  else j

/-- The sheets that the audit of bin `b` finds gone. -/
def Part.auditedSheets (p : Part) (occ : Occupancy) (b : Nat) : Nat :=
  if [BinState.filling, .stitchWait, .stitching, .ejectWait].contains (p.bin b).state && occ.bins.getLsbD (b - 1) == false then
    (p.bin b).set.pages.length
  else 0

@[simp] theorem Part.auditedJob_state (p : Part) (occ : Occupancy) (j : Job) (b : Nat) :
    (p.auditedJob occ j b).state = j.state ∧ (p.auditedJob occ j b).number = j.number ∧
    (p.auditedJob occ j b).copies = j.copies := by
  unfold Part.auditedJob Job.countGone Job.release
  (repeat' split) <;> exact ⟨rfl, rfl, rfl⟩

theorem Part.auditedJob_keeps (p : Part) (occ : Occupancy) (j : Job) (b : Nat) {e : BinEntry} (he : e ∈ j.bins)
    (hb : p.isGone occ b = true ∨ p.isOrphanGone occ b = true → e.bin ≠ b) : e ∈ (p.auditedJob occ j b).bins := by
  have key : e.bin ≠ b → e ∈ (j.release b).bins := by
    intro h
    exact List.mem_map.2 ⟨e, he, by rw [if_neg h]⟩
  unfold Part.auditedJob
  split
  · split
    · next h => exact key (hb (.inl h))
    · split
      · next h => exact key (hb (.inr h))
      · exact he
  · exact he

theorem Part.foldl_auditedJob (p : Part) (occ : Occupancy) (bs : List Nat) (j : Job) :
    (bs.foldl (p.auditedJob occ) j).state = j.state ∧ (bs.foldl (p.auditedJob occ) j).number = j.number ∧
    ∀ e ∈ j.bins, (∀ b ∈ bs, p.isGone occ b = true ∨ p.isOrphanGone occ b = true → e.bin ≠ b) →
      e ∈ (bs.foldl (p.auditedJob occ) j).bins := by
  induction bs generalizing j with
  | nil => exact ⟨rfl, rfl, fun e he _ => he⟩
  | cons b bs ih =>
    obtain ⟨h1, h2, h3⟩ := ih (p.auditedJob occ j b)
    refine ⟨h1.trans (by simp), h2.trans (by simp), fun e he hb => ?_⟩
    exact h3 e (p.auditedJob_keeps occ j b he (hb b (List.mem_cons_self ..)))
      fun c hc => hb c (List.mem_cons_of_mem _ hc)

/-! ## The audit of the bins one after the other -/

/-- `q` is `p` after the audit of the bins `bs`. -/
structure Part.AuditedTo (p q : Part) (occ : Occupancy) (bs : List Nat) : Prop where
  eq   : q = { p with
    bins := q.bins
    jobs := { p.jobs with jobs := p.jobs.jobs.map fun j => bs.foldl (p.auditedJob occ) j }
    path := { p.path with account := p.path.account.binsToRemoved ((bs.map (p.auditedSheets occ)).sum) }
    carriage := { p.carriage with
      queue := p.carriage.queue.filter fun b => !(bs.contains b && p.isGone occ b)
      held := p.carriage.held.filter fun h => !(bs.contains h.bin && p.isGone occ h.bin) }
    conv := { p.conv with queue :=
      (p.conv.queue.filter fun e => !(bs.contains e.bin && (p.isGone occ e.bin || p.isOrphanGone occ e.bin))) ++
        (bs.filter fun b => p.isFound occ b).map fun b => { bin := b, placeable := none } } }
  bins : ∀ b, q.bin b = if b ∈ bs then p.auditedBin occ b else p.bin b

/-- What the audit of `p` needs: no check moves the mechanism, no job waits for bins, and none ends with the bins it frees. -/
structure Part.Auditable (p : Part) (occ : Occupancy) : Prop where
  lines : p.lines.occ = occ
  mode  : p.ctl.mode = .service
  queue : p.jobs.queue = []
  jobs  : ∀ j ∈ p.jobs.jobs, j.state ∈ [JobState.finishing, .cancelling] →
    ∃ e ∈ j.bins, e.released = false ∧ ∀ b, p.isGone occ b = true ∨ p.isOrphanGone occ b = true → e.bin ≠ b

theorem Account.binsToRemoved_add (a : Account) (m n : Nat) :
    (a.binsToRemoved m).binsToRemoved n = a.binsToRemoved (m + n) := by
  simp only [Account.binsToRemoved, BitVec.ofNat_add]
  congr 1
  · bv_omega
  · bv_omega

theorem Account.binsToRemoved_zero (a : Account) : a.binsToRemoved 0 = a := by
  simp [Account.binsToRemoved]

theorem Part.AuditedTo.nil (p : Part) (occ : Occupancy) : p.AuditedTo p occ [] := by
  refine ⟨?_, by simp⟩
  have h : p.carriage.held.filter (fun _ => true) = p.carriage.held := by cases p.carriage.held <;> rfl
  simp [Account.binsToRemoved_zero, h]

/-- A filter by membership of a longer list. -/
theorem filter_snoc {α : Type} (f : α → Nat) (P : Nat → Bool) (bs : List Nat) (b : Nat) (l : List α) :
    (l.filter fun c => !((bs ++ [b]).contains (f c) && P (f c))) =
      if P b then (l.filter fun c => !(bs.contains (f c) && P (f c))).filter fun c => f c ≠ b
      else l.filter fun c => !(bs.contains (f c) && P (f c)) := by
  split
  · next h =>
    rw [List.filter_filter]
    refine List.filter_congr fun c _ => ?_
    by_cases hc : f c = b
    · simp [hc, h]
    · simp [hc]
  · next h =>
    refine List.filter_congr fun c _ => ?_
    by_cases hc : f c = b
    · simp [hc, h]
    · simp [hc]

theorem optionFilter_snoc {α : Type} (f : α → Nat) (P : Nat → Bool) (bs : List Nat) (b : Nat) (o : Option α) :
    (o.filter fun c => !((bs ++ [b]).contains (f c) && P (f c))) =
      if P b then (o.filter fun c => !(bs.contains (f c) && P (f c))).filter fun c => f c ≠ b
      else o.filter fun c => !(bs.contains (f c) && P (f c)) := by
  cases o with
  | none => simp
  | some c =>
    by_cases hc : f c = b <;> by_cases h : P b = true <;> by_cases hb : f c ∈ bs <;> by_cases hp : P (f c) = true <;>
      simp_all [Option.filter]

theorem Part.auditedJobs_snoc (p : Part) (occ : Occupancy) (bs : List Nat) (b : Nat) :
    (p.jobs.jobs.map fun j => (bs ++ [b]).foldl (p.auditedJob occ) j) =
      (p.jobs.jobs.map fun j => bs.foldl (p.auditedJob occ) j).map fun j => p.auditedJob occ j b := by
  simp [List.map_map, Function.comp_def]

/-- What the audit of one more bin changes. -/
theorem Part.AuditedTo.snoc {p q x : Part} {occ : Occupancy} {bs : List Nat} (h : p.AuditedTo q occ bs) {b : Nat}
    (e : x = { q with
      bins := x.bins
      jobs := { q.jobs with jobs := q.jobs.jobs.map fun j => p.auditedJob occ j b }
      path := { q.path with account := q.path.account.binsToRemoved (p.auditedSheets occ b) }
      carriage := { q.carriage with
        queue := if p.isGone occ b then q.carriage.queue.filter (fun c => c ≠ b) else q.carriage.queue
        held := if p.isGone occ b then q.carriage.held.filter (fun h => h.bin ≠ b) else q.carriage.held }
      conv := { q.conv with queue :=
        (if p.isGone occ b || p.isOrphanGone occ b then q.conv.queue.filter (fun e => e.bin ≠ b) else q.conv.queue) ++
          (if p.isFound occ b then [{ bin := b, placeable := none }] else []) } })
    (hx : ∀ c, x.bin c = if c = b then p.auditedBin occ b else q.bin c)
    (hfound : p.isFound occ b = true → p.isGone occ b = false ∧ p.isOrphanGone occ b = false)
    (hgone : p.isGone occ b = true ∨ p.isOrphanGone occ b = true → ∀ c ∈ bs, p.isFound occ c = true → c ≠ b) :
    p.AuditedTo x occ (bs ++ [b]) := by
  refine ⟨?_, fun c => ?_⟩
  · have e0 := h.eq
    obtain ⟨B, hB⟩ : ∃ B, B = q.bins := ⟨_, rfl⟩
    rw [← hB] at e0
    subst e0
    refine e.trans ?_
    have k1 := filter_snoc (α := Nat) id (p.isGone occ) bs b p.carriage.queue
    have k2 := optionFilter_snoc Held.bin (p.isGone occ) bs b p.carriage.held
    have k3 := filter_snoc EjectEntry.bin (fun c => p.isGone occ c || p.isOrphanGone occ c) bs b p.conv.queue
    simp only [id] at k1
    have k4 : ∀ l : List EjectEntry, l = (bs.filter fun c => p.isFound occ c).map (fun c => { bin := c, placeable := none }) →
        (p.isGone occ b || p.isOrphanGone occ b) = true → l.filter (fun e => e.bin ≠ b) = l := by
      rintro l rfl hgb
      rw [List.filter_eq_self]
      intro e he
      obtain ⟨c, hc, rfl⟩ := List.mem_map.1 he
      obtain ⟨hc1, hc2⟩ := List.mem_filter.1 hc
      simpa using hgone (by simpa using hgb) c hc1 hc2
    have k5 : ((bs ++ [b]).filter fun c => p.isFound occ c).map (fun c => ({ bin := c, placeable := none } : EjectEntry)) =
        (bs.filter fun c => p.isFound occ c).map (fun c => { bin := c, placeable := none }) ++
          (if p.isFound occ b then [{ bin := b, placeable := none }] else []) := by
      rw [List.filter_append, List.map_append]
      by_cases hfb : p.isFound occ b = true <;> simp [hfb]
    have k6 : p.path.account.binsToRemoved (((bs ++ [b]).map (p.auditedSheets occ)).sum) =
        (p.path.account.binsToRemoved ((bs.map (p.auditedSheets occ)).sum)).binsToRemoved (p.auditedSheets occ b) := by
      rw [Account.binsToRemoved_add]
      simp
    simp only [k1, k2, k3, k5, k6, p.auditedJobs_snoc occ bs b]
    congr 2
    by_cases hgb : (p.isGone occ b || p.isOrphanGone occ b) = true
    · simp only [hgb, if_true, List.filter_append, k4 _ rfl hgb, List.append_assoc]
    · simp only [hgb, Bool.false_eq_true, if_false, List.append_assoc]
  · rw [hx, h.bins]
    by_cases hc : c = b
    · subst hc; simp
    · simp [hc]

/-- R70 to R72: one more bin is audited. -/
theorem Part.AuditedTo.step {p q : Part} {occ : Occupancy} {bs : List Nat} (hp : p.Auditable occ) (h : p.AuditedTo q occ bs)
    {b : Nat} (a : Audit) (hb : binOk b = true) (hn : b ∉ bs) :
    p.AuditedTo (q.auditBin a b).1 occ (bs ++ [b]) ∧
    (q.auditBin a b).2 =
      { emptied := a.emptied + ([b].filter fun b => [BinState.filling].contains (p.bin b).state &&
          occ.bins.getLsbD (b - 1) == false).length
        foreign := a.foreign + ([b].filter fun b => [BinState.assigned].contains (p.bin b).state &&
          occ.bins.getLsbD (b - 1) == true).length
        orphan := a.orphan + ([b].filter (p.isFound occ)).length
        freed := a.freed + ([b].filter fun b => p.isGone occ b || p.isOrphanGone occ b).length } := by
  have hb' : 1 ≤ b ∧ b ≤ Config.numBins := by simpa [Config.numBins] using binOk_iff.1 hb
  have hqb : q.bin b = p.bin b := by rw [h.bins, if_neg hn]
  have hsense : q.lines.binOccupied b = occ.bins.getLsbD (b - 1) := by
    rw [h.eq]
    simp only [Lines.binOccupied, hp.lines]
  have hmode : q.ctl.mode = .service := by rw [h.eq]; exact hp.mode
  have hqueue : q.jobs.queue = [] := by rw [h.eq]; exact hp.queue
  have hjobs : q.jobs.jobs = p.jobs.jobs.map fun j => bs.foldl (p.auditedJob occ) j := by rw [h.eq]
  have hfree : ∀ (x : Part) (f : Tallies → Tallies), x.jobs = q.jobs → x.bin b = p.bin b →
      (p.isGone occ b = true ∨ p.isOrphanGone occ b = true) →
      x.freeBin b f = { x.setBin b Bin.free with jobs := { x.jobs with jobs := x.releasedJobs b f } } := by
    intro x f hx hxb hg
    refine Part.freeBin_eq b f (by rw [hx]; exact hqueue) fun j hj _ hs => .inl ?_
    rw [hx, hjobs] at hj
    obtain ⟨j0, hj0, rfl⟩ := List.mem_map.1 hj
    obtain ⟨e1, -, e3⟩ := p.foldl_auditedJob occ bs j0
    obtain ⟨e, he, h1, h2⟩ := hp.jobs j0 hj0 (e1 ▸ hs)
    exact ⟨e, e3 e he fun c _ hc => h2 c hc, h1, h2 b hg⟩
  have hfg : p.isFound occ b = true → p.isGone occ b = false ∧ p.isOrphanGone occ b = false := by
    unfold Part.isFound Part.isGone Part.isOrphanGone
    cases occ.bins.getLsbD (b - 1) <;> simp
  have hgc : p.isGone occ b = true ∨ p.isOrphanGone occ b = true → ∀ c ∈ bs, p.isFound occ c = true → c ≠ b := by
    rintro _ c hc _ rfl
    exact hn hc
  have hset : ∀ (x : Part) (r : Bin), x.bins = (q.setBin b r).bins → r = p.auditedBin occ b →
      ∀ c, x.bin c = if c = b then p.auditedBin occ b else q.bin c := by
    intro x r hx hr c
    rw [Part.bin_congr hx, Part.bin_setBin, hb, hr]
    simp
  have hrest : p.auditedBin occ b = p.bin b → ∀ c, q.bin c = if c = b then p.auditedBin occ b else q.bin c := by
    intro hr c
    split
    · next hc => rw [hc, hqb, hr]
    · rfl
  unfold Part.auditBin
  rw [hqb, hsense]
  have hzero := Account.binsToRemoved_zero q.path.account
  cases hst : (p.bin b).state <;> cases ho : occ.bins.getLsbD (b - 1) <;> dsimp only
  case assigned.false | filling.true | stitchWait.true | stitching.true | ejectWait.true | ejecting.true | ejecting.false |
      orphan.true | free.false =>
    refine ⟨h.snoc ?_ (hrest ?_) hfg hgc, ?_⟩
    · simp [Part.auditedJob, Part.isGone, Part.isOrphanGone, Part.isFound, Part.auditedSheets, hst, ho, hzero]
    · simp [Part.auditedBin, hst, ho]
    · simp [Part.isGone, Part.isOrphanGone, Part.isFound, hst, ho]
  case filling.false =>
    refine ⟨h.snoc ?_ (fun c => ?_) hfg hgc, ?_⟩
    · simp [Part.setBinState, Part.modSet, Part.setBin, hb', Part.modAccount, Part.auditedJob, Part.isGone, Part.isOrphanGone,
        Part.isFound, Part.auditedSheets, hst, ho, SetRecord.sheets]
    · have hacc : ∀ f d, (q.modAccount f).bin d = q.bin d := fun _ _ => rfl
      rw [Part.bin_setBinState, Part.bin_modSet, Part.bin_modSet, hacc, hacc, hqb]
      by_cases hc : c = b
      · simp [hc, hb, Part.auditedBin, hst, ho]
      · simp [hc]
    · simp [Part.isGone, Part.isOrphanGone, Part.isFound, hst, ho]
  case assigned.true =>
    refine ⟨h.snoc ?_ (fun c => ?_) hfg hgc, ?_⟩
    · simp [Part.modSet, Part.setBin, hb', Part.auditedJob, Part.isGone, Part.isOrphanGone,
        Part.isFound, Part.auditedSheets, hst, ho, hzero]
    · simp [Part.bin_modSet, hb, Part.auditedBin, hst, ho, hqb]
    · simp [Part.isGone, Part.isOrphanGone, Part.isFound, hst, ho]
  case free.true =>
    refine ⟨h.snoc ?_ (hset _ Bin.orphan ?_ ?_) hfg hgc, ?_⟩
    · simp [Part.setBin, hb', Part.auditedJob, Part.isGone, Part.isOrphanGone,
        Part.isFound, Part.auditedSheets, hst, ho, hzero, Part.joinEject, Part.appendEject, Part.wake, hmode, Part.choiceCheck]
    · simp [Part.joinEject, Part.appendEject, Part.wake, hmode, Part.choiceCheck]
    · simp [Part.auditedBin, hst, ho]
    · simp [Part.isGone, Part.isOrphanGone, Part.isFound, hst, ho]
  case orphan.false =>
    have hor : p.isOrphanGone occ b = true := by simp [Part.isOrphanGone, hst, ho]
    have hgn : p.isGone occ b = false := by simp [Part.isGone, hst]
    have hfd : p.isFound occ b = false := by simp [Part.isFound, hst]
    unfold Part.releaseBin
    rw [hfree (q.leaveEject b) _ rfl hqb (.inr hor)]
    refine ⟨h.snoc ?_ (hset _ Bin.free ?_ ?_) hfg hgc, ?_⟩
    · have hs0 : p.auditedSheets occ b = 0 := by simp [Part.auditedSheets, hst]
      simp only [hs0, hzero, hor, hgn, hfd]
      simp [Part.setBin, hb', Part.leaveEject, Part.releasedJobs, Part.auditedJob, hor, hgn]
      intro j _
      change (if (q.bin b).set.job = some j.number then _ else _) = _
      rw [hqb]
      rfl
    · simp [Part.setBin, hb', Part.leaveEject]
    · simp [Part.auditedBin, hst, ho]
    · simp [hor, hgn, hfd, hst]
  all_goals
    have hgn : p.isGone occ b = true := by simp [Part.isGone, hst, ho]
    have hor : p.isOrphanGone occ b = false := by simp [Part.isOrphanGone, hst]
    have hfd : p.isFound occ b = false := by simp [Part.isFound, hst]
    rw [hfree ((q.forgetSet b).modAccount _) _ rfl hqb (.inl hgn)]
    refine ⟨h.snoc ?_ (hset _ Bin.free ?_ ?_) hfg hgc, ?_⟩
    · have hs0 : p.auditedSheets occ b = (p.bin b).set.pages.length := by simp [Part.auditedSheets, hst, ho]
      simp only [hs0, hor, hgn, hfd]
      simp [Part.setBin, hb', Part.forgetSet, Part.leaveStitch, Part.modAccount, Part.leaveEject, Part.releasedJobs, Part.auditedJob, hgn]
      refine ⟨fun j _ => ?_, rfl⟩
      change (if (q.bin b).set.job = some j.number then _ else _) = _
      rw [hqb]
      cases (p.bin b).set.void <;> rfl
    · simp [Part.setBin, hb', Part.forgetSet, Part.leaveStitch, Part.modAccount, Part.leaveEject]
    · simp [Part.auditedBin, hst, ho]
    · simp [hor, hgn, hfd, hst]

/-! ## The whole audit -/

/-- The numbers of the audit of the bins `bs`, counted on from `a`. -/
def Part.auditCounts (p : Part) (occ : Occupancy) (a : Audit) (bs : List Nat) : Audit :=
  { emptied := a.emptied + (bs.filter fun b => [BinState.filling].contains (p.bin b).state &&
      occ.bins.getLsbD (b - 1) == false).length
    foreign := a.foreign + (bs.filter fun b => [BinState.assigned].contains (p.bin b).state &&
      occ.bins.getLsbD (b - 1) == true).length
    orphan := a.orphan + (bs.filter (p.isFound occ)).length
    freed := a.freed + (bs.filter fun b => p.isGone occ b || p.isOrphanGone occ b).length }

theorem Part.auditCounts_cons (p : Part) (occ : Occupancy) (a : Audit) (b : Nat) (bs : List Nat) :
    p.auditCounts occ (p.auditCounts occ a [b]) bs = p.auditCounts occ a (b :: bs) := by
  have h : ∀ P : Nat → Bool, ((b :: bs).filter P).length = ([b].filter P).length + (bs.filter P).length := by
    intro P
    rw [show b :: bs = [b] ++ bs from rfl, List.filter_append, List.length_append]
  simp only [Part.auditCounts, h, Nat.add_assoc]

theorem Part.AuditedTo.foldl {p : Part} {occ : Occupancy} (hp : p.Auditable occ) (cs : List Nat) {q : Part} {bs : List Nat}
    (h : p.AuditedTo q occ bs) (a : Audit) (hb : ∀ c ∈ cs, binOk c = true) (hn : (bs ++ cs).Nodup) :
    p.AuditedTo (cs.foldl (fun r b => r.1.auditBin r.2 b) (q, a)).1 occ (bs ++ cs) ∧
    (cs.foldl (fun r b => r.1.auditBin r.2 b) (q, a)).2 = p.auditCounts occ a cs := by
  induction cs generalizing q bs a with
  | nil => simpa [Part.auditCounts] using h
  | cons c cs ih =>
    have hc : c ∉ bs := fun hm => (List.nodup_append.1 hn).2.2 c hm c (List.mem_cons_self ..) rfl
    obtain ⟨h1, h2⟩ := h.step hp a (hb c (List.mem_cons_self ..)) hc
    rw [List.append_cons] at hn ⊢
    obtain ⟨h3, h4⟩ := ih h1 (q.auditBin a c).2 (fun d hd => hb d (List.mem_cons_of_mem _ hd)) hn
    refine ⟨h3, h4.trans ?_⟩
    rw [← p.auditCounts_cons occ a c cs, h2]
    rfl

theorem Part.mem_setsGone {p : Part} {occ : Occupancy} {b : Nat} :
    b ∈ p.setsGone occ ↔ b ∈ allBins ∧ p.isGone occ b = true := List.mem_filter

theorem Part.mem_orphansGone {p : Part} {occ : Occupancy} {b : Nat} :
    b ∈ p.orphansGone occ ↔ b ∈ allBins ∧ p.isOrphanGone occ b = true := List.mem_filter

theorem Part.isGone_not_orphan (p : Part) (occ : Occupancy) (b : Nat) :
    p.isGone occ b = true → p.isOrphanGone occ b = false := by
  unfold Part.isGone Part.isOrphanGone
  cases (p.bin b).state <;> simp

theorem sum_filter (P : Nat → Bool) (f : Nat → Nat) (bs : List Nat) :
    (bs.map fun b => if P b then f b else 0).sum = ((bs.filter P).map f).sum := by
  induction bs with
  | nil => rfl
  | cons b bs ih => cases h : P b <;> simp [h, ih]

theorem Job.foldl_countGone (v : Nat → Bool) (l : List Nat) (j : Job) (es : List BinEntry) :
    l.foldl (fun i b => i.countGone (v b)) { j with bins := es } = { l.foldl (fun i b => i.countGone (v b)) j with bins := es } := by
  induction l generalizing j with
  | nil => rfl
  | cons b l ih => exact ih (j.countGone (v b))

/-- R2, R71: a job's record after the audit, bin by bin and at once. -/
theorem Part.foldl_auditedJob_eq (p : Part) (occ : Occupancy) (bs : List Nat) (j : Job) :
    bs.foldl (p.auditedJob occ) j =
      let mine (b : Nat) : Bool := (p.bin b).set.job == some j.number
      ((bs.filter (p.isGone occ)).filter mine).foldl (fun i b => i.countGone (p.bin b).set.void)
        { j with bins := j.bins.map fun e =>
            if e.bin ∈ (bs.filter (p.isGone occ) ++ bs.filter (p.isOrphanGone occ)).filter mine then { e with released := true }
            else e } := by
  induction bs generalizing j with
  | nil => simp
  | cons b bs ih =>
    rw [List.foldl_cons, ih]
    dsimp only
    rw [(p.auditedJob_state occ j b).2.1]
    have hno := p.isGone_not_orphan occ b
    have hrel : ∀ (P : Nat → Prop) [DecidablePred P], ((j.release b).bins.map fun e =>
        if P e.bin then ({ e with released := true } : BinEntry) else e) =
          j.bins.map fun e => if e.bin = b ∨ P e.bin then { e with released := true } else e := by
      intro P _
      simp only [Job.release, List.map_map]
      refine List.map_congr_left fun e _ => ?_
      simp only [Function.comp]
      by_cases h1 : e.bin = b <;> by_cases h2 : P e.bin <;> by_cases h3 : P b <;> simp_all
    have key : ∀ (l : List Nat) (es fs : List BinEntry) (i : Job), es = fs →
        l.foldl (fun i b => i.countGone (p.bin b).set.void) { i with bins := es } =
          l.foldl (fun i b => i.countGone (p.bin b).set.void) { i with bins := fs } := by
      rintro l es fs i rfl
      rfl
    by_cases hm : (p.bin b).set.job = some j.number
    · have e1 : p.auditedJob occ j b = if p.isGone occ b then (j.release b).countGone (p.bin b).set.void
          else if p.isOrphanGone occ b then j.release b else j := by
        unfold Part.auditedJob
        rw [if_pos hm]
      rw [e1]
      by_cases hg : p.isGone occ b = true
      · simp only [hg, hno hg, if_true, List.filter_cons, hm, beq_self_eq_true, Bool.false_eq_true, if_false, List.foldl_cons,
          List.cons_append]
        refine key _ _ _ ((j.countGone (p.bin b).set.void)) ?_
        refine (hrel _).trans (List.map_congr_left fun e _ => ?_)
        simp only [List.mem_cons]
      · by_cases ho : p.isOrphanGone occ b = true
        · simp only [hg, ho, if_true, List.filter_cons, hm, beq_self_eq_true, Bool.false_eq_true, if_false, List.filter_append]
          refine key _ _ _ j ?_
          refine (hrel _).trans (List.map_congr_left fun e _ => ?_)
          simp only [List.mem_cons, List.mem_append]
          congr 1
          rw [or_left_comm]
        · simp [hg, ho]
    · have e1 : p.auditedJob occ j b = j := by
        unfold Part.auditedJob
        rw [if_neg hm]
      have hm' : ((p.bin b).set.job == some j.number) = false := by simpa using hm
      have skip : ∀ Q : Nat → Bool, ((b :: bs).filter Q).filter (fun b => (p.bin b).set.job == some j.number) =
          (bs.filter Q).filter fun b => (p.bin b).set.job == some j.number := by
        intro Q
        cases h : Q b <;> simp [h, hm']
      simp only [e1, List.filter_append, skip]

theorem Part.auditedTo_audits {p t : Part} {occ : Occupancy} (h : p.AuditedTo t occ allBins) : Audits p t occ := by
  have e := h.eq
  have hb : ∀ b, (1 ≤ b ∧ b ≤ 48) → t.bin b = p.auditedBin occ b := fun b hb => by rw [h.bins, if_pos (mem_allBins.2 hb)]
  have sensed : ∀ {states : List BinState} {o : Bool} {b : Nat}, b ∈ p.sensedBins occ states o ↔
      (1 ≤ b ∧ b ≤ 48) ∧ (p.bin b).state ∈ states ∧ occ.bins.getLsbD (b - 1) = o := by
    intro states o b
    rw [show p.sensedBins occ states o = allBins.filter _ from rfl, List.mem_filter, mem_allBins]
    simp
  have gone : ∀ b, (allBins.contains b && p.isGone occ b) = Decidable.decide (b ∈ p.setsGone occ) := by
    intro b
    rw [Bool.eq_iff_iff]
    simp [Part.mem_setsGone]
  have freed : ∀ b, (allBins.contains b && (p.isGone occ b || p.isOrphanGone occ b)) =
      Decidable.decide (b ∈ p.setsGone occ ∨ b ∈ p.orphansGone occ) := by
    intro b
    rw [Bool.eq_iff_iff]
    simp [Part.mem_setsGone, Part.mem_orphansGone, and_or_left]
  refine ⟨?_, ?_, ?_, ?_, ?_, ?_, ?_, ?_, ?_⟩
  · intro b hm
    obtain ⟨h1, h2, h3⟩ := sensed.1 hm
    rw [hb b h1]
    simp only [List.mem_singleton] at h2
    simp [Part.auditedBin, h2, h3]
  · intro b hm
    have h1 : (1 ≤ b ∧ b ≤ 48) ∧ (p.bin b).state ∈ [BinState.stitchWait, .stitching, .ejectWait, .orphan] ∧
        occ.bins.getLsbD (b - 1) = false := by
      rcases hm with hm | hm <;> obtain ⟨h1, h2, h3⟩ := sensed.1 hm <;> refine ⟨h1, ?_, h3⟩ <;> simp at h2 ⊢ <;> tauto
    obtain ⟨h1, h2, h3⟩ := h1
    rw [hb b h1]
    simp only [List.mem_cons, List.not_mem_nil, or_false] at h2
    rcases h2 with h2 | h2 | h2 | h2 <;> simp [Part.auditedBin, h2, h3, Bin.free]
  · intro b hm
    obtain ⟨h1, h2, h3⟩ := sensed.1 hm
    rw [hb b h1]
    simp only [List.mem_singleton] at h2
    simp [Part.auditedBin, h2, h3]
  · intro b hm
    obtain ⟨h1, h2, h3⟩ := sensed.1 hm
    rw [hb b h1]
    simp only [List.mem_singleton] at h2
    simp [Part.auditedBin, h2, h3, Bin.orphan, voidPlan]
  · intro b h1 h2 h3 h4 h5
    by_cases hr : 1 ≤ b ∧ b ≤ 48
    · rw [hb b hr]
      have h2' := mt sensed.2 h2
      have h3' := mt sensed.2 h3
      rw [sensed] at h1 h4 h5
      clear sensed gone freed e h hb
      cases hs : (p.bin b).state <;> cases ho : occ.bins.getLsbD (b - 1) <;> simp [hr, hs, ho, Part.auditedBin] at *
    · rw [h.bins, if_neg (mt mem_allBins.1 hr)]
  · rw [e]
    dsimp only
    congr 1
    refine List.map_congr_left fun j _ => ?_
    rw [p.foldl_auditedJob_eq]
    rfl
  · rw [e]
    dsimp only [Account.binsToRemoved]
    rw [show (allBins.map (p.auditedSheets occ)).sum = p.sheetsGone occ from sum_filter _ _ _]
  · rw [e]
    simp only [gone, decide_not]
  · rw [e]
    simp only [freed]
    congr 2
    refine List.filter_congr fun e _ => ?_
    simp

/-- R70 to R72: the audit, where no job waits for bins and none ends with the bins it frees. -/
theorem Part.audit_spec {p : Part} (hp : p.Auditable p.lines.occ) :
    let occ := p.lines.occ
    let t := p.audit.1
    t = { p with jobs := t.jobs, path := t.path, bins := t.bins, carriage := t.carriage, conv := t.conv } ∧ Audits p t occ ∧
    p.audit.2 =
      { emptied := (p.sensedBins occ [.filling] false).length
        foreign := (p.sensedBins occ [.assigned] true).length
        orphan := (p.sensedBins occ [.free] true).length
        freed := (p.setsGone occ).length + (p.orphansGone occ).length } := by
  obtain ⟨h1, h2⟩ := Part.AuditedTo.foldl hp allBins (.nil p _) {} (fun c hc => binOk_iff.2 (mem_allBins.1 hc)) allBins_nodup
  refine ⟨?_, Part.auditedTo_audits h1, ?_⟩
  · have e := h1.eq
    rw [show p.audit.1 = _ from rfl, Part.audit]
    rw [e]
  · refine h2.trans ?_
    have hd : ∀ l : List Nat, (l.filter fun b => p.isGone p.lines.occ b || p.isOrphanGone p.lines.occ b).length =
        (l.filter (p.isGone p.lines.occ)).length + (l.filter (p.isOrphanGone p.lines.occ)).length := by
      intro l
      induction l with
      | nil => rfl
      | cons b l ih =>
        have hno : p.isGone p.lines.occ b = true → p.isOrphanGone p.lines.occ b = false := p.isGone_not_orphan _ b
        cases hg : p.isGone p.lines.occ b <;> cases ho : p.isOrphanGone p.lines.occ b <;>
          simp_all <;> omega
    simp only [Part.auditCounts, Nat.zero_add, hd]
    rfl

/-- R70: where the sensors agree with the records, the audit finds nothing and changes nothing. -/
theorem Part.audit_of_agree {p : Part} (h : p.SensorsAgree p.lines.occ) : p.audit = (p, {}) := by
  have k : ∀ (bs : List Nat), (∀ b ∈ bs, 1 ≤ b ∧ b ≤ 48) →
      bs.foldl (fun r b => r.1.auditBin r.2 b) (p, ({} : Audit)) = (p, {}) := by
    intro bs hb
    induction bs with
    | nil => rfl
    | cons b bs ih =>
      have hbb := h b (hb b (List.mem_cons_self ..))
      have : p.auditBin {} b = (p, {}) := by
        unfold Part.auditBin Lines.binOccupied
        dsimp only
        split <;> simp_all
      rw [List.foldl_cons, this]
      exact ih fun c hc => hb c (List.mem_cons_of_mem _ hc)
  exact k _ fun b hb => mem_allBins.1 hb

end Sys2Proof.Machine
end

