-- ==== Sys2Proof/Laws/Drawers.lean ====
section
/-! SUPPORT. What allocation can do, said once (08, R117, R121, R122, R129): the drawer it takes in the row and among the
flexible drawers, and the record, copy, marker and tree after it. -/

namespace Sys2Proof.Machine

/-- The first flexible drawer that passes a test is the lowest that does. -/
theorem find_flexible_eq_some (v : Nat → Bool) (d : Nat) :
    flexibleDrawers.find? v = some d ↔
      (17 ≤ d ∧ d ≤ 20 ∧ v d = true ∧ ∀ c, 17 ≤ c ∧ c ≤ 20 → v c = true → d ≤ c) := by
  constructor
  · intro h
    have h1 := List.find?_some h
    simp [flexibleDrawers] at h
    obtain ⟨h17, h18, h19, h20⟩ | h := h <;> grind
  · intro ⟨h1, h2, h3, h4⟩
    have : d = 17 ∨ d = 18 ∨ d = 19 ∨ d = 20 := by omega
    have a17 := h4 17 (by omega)
    have a18 := h4 18 (by omega)
    have a19 := h4 19 (by omega)
    have a20 := h4 20 (by omega)
    simp only [flexibleDrawers, List.find?_cons]
    grind

/-- No flexible drawer passes a test. -/
theorem find_flexible_eq_none (v : Nat → Bool) :
    flexibleDrawers.find? v = none ↔ ∀ c, 17 ≤ c ∧ c ≤ 20 → v c = false := by
  simp [flexibleDrawers]
  constructor
  · intro h c h1 h2
    have : c = 17 ∨ c = 18 ∨ c = 19 ∨ c = 20 := by omega
    grind
  · intro h
    exact ⟨h 17 (by omega) (by omega), h 18 (by omega) (by omega), h 19 (by omega) (by omega),
      h 20 (by omega) (by omega)⟩

/-- R122: the tree chooses none exactly where no flexible drawer is eligible. -/
theorem Tree.choose_eq_none (t : Tree) (v : Nat → Bool) :
    t.choose v = none ↔ ∀ c, 17 ≤ c ∧ c ≤ 20 → v c = false := by
  obtain ⟨a, b, c⟩ := t
  have : (∀ c, 17 ≤ c ∧ c ≤ 20 → v c = false) ↔
      (v 17 = false ∧ v 18 = false ∧ v 19 = false ∧ v 20 = false) := by
    rw [← find_flexible_eq_none]; simp [flexibleDrawers]
  rw [this]
  cases a <;> cases b <;> cases c <;> simp [Tree.choose] <;> grind

/-- R122: the eligible drawer the tree chooses: of the pair it names where that holds one, and within
the pair the one it names where that is eligible. -/
theorem Tree.choose_eq_some (t : Tree) (v : Nat → Bool) (d : Nat) : t.choose v = some d ↔
    (17 ≤ d ∧ d ≤ 20 ∧ v d = true ∧
     (∀ c, 17 ≤ c ∧ c ≤ 20 → v c = true → ¬ (19 ≤ c ↔ 19 ≤ d) → (t.upperPair = true ↔ 19 ≤ d)) ∧
     (∀ c, 17 ≤ c ∧ c ≤ 20 → v c = true → (19 ≤ c ↔ 19 ≤ d) → c ≠ d →
        d = if d ≤ 18 then (if t.second17 = true then 18 else 17) else (if t.second19 = true then 20 else 19))) := by
  obtain ⟨x, y, z⟩ := t
  have key (f : Nat → Prop) : (∀ c, 17 ≤ c ∧ c ≤ 20 → f c) ↔ (f 17 ∧ f 18 ∧ f 19 ∧ f 20) := by
    constructor
    · intro h; exact ⟨h 17 (by omega), h 18 (by omega), h 19 (by omega), h 20 (by omega)⟩
    · intro ⟨a, b, c, e⟩ n hn
      have : n = 17 ∨ n = 18 ∨ n = 19 ∨ n = 20 := by omega
      rcases this with rfl | rfl | rfl | rfl <;> assumption
  rw [key, key]
  by_cases hd : d = 17 ∨ d = 18 ∨ d = 19 ∨ d = 20
  · generalize h17 : v 17 = a
    generalize h18 : v 18 = b
    generalize h19 : v 19 = c
    generalize h20 : v 20 = e
    rcases hd with rfl | rfl | rfl | rfl <;>
    cases x <;> cases y <;> cases z <;>
    cases a <;> cases b <;> cases c <;> cases e <;> simp [Tree.choose, h17, h18, h19, h20]
  · constructor
    · intro h
      exfalso; apply hd
      have := List.mem_of_find?_eq_some h
      revert this
      cases x <;> cases y <;> cases z <;> simp <;> omega
    · intro ⟨h1, h2, _⟩; omega

/-- A way is way 1 or way 2. -/
theorem Way.cases_eq : ∀ w : Way, w = .one ∨ w = .two := by intro w; cases w <;> simp

/-- R121: the drawer that allocation takes in the destination's row. -/
theorem DrawerMap.rowChoice_eq_some (m : DrawerMap) (dest d : Nat) :
    m.rowChoice dest = some d ↔
      (let row := dest % 8
       let w1 := 2 * row + 1
       let w2 := 2 * row + 2
       (d = w1 ∧ m.vacant w1 = true) ∨ (d = w2 ∧ m.vacant w2 = true ∧ ¬ m.vacant w1 = true) ∨
       (¬ m.vacant w1 = true ∧ ¬ m.vacant w2 = true ∧
        ((d = w1 ∧ m.takable dest w1 = true ∧ (m.takable dest w2 = true → m.marker row = .two)) ∨
         (d = w2 ∧ m.takable dest w2 = true ∧ (m.takable dest w1 = true → m.marker row = .one))))) := by
  simp only [DrawerMap.rowChoice, destRow, drawerOfWay]
  rcases Bool.eq_false_or_eq_true (m.vacant (2 * (dest % 8) + 1)) with a | a <;>
  rcases Bool.eq_false_or_eq_true (m.vacant (2 * (dest % 8) + 2)) with b | b <;>
  rcases Bool.eq_false_or_eq_true (m.takable dest (2 * (dest % 8) + 1)) with x | x <;>
  rcases Bool.eq_false_or_eq_true (m.takable dest (2 * (dest % 8) + 2)) with y | y <;>
  rcases Way.cases_eq (m.marker (dest % 8)) with w | w <;> simp [a, b, x, y, w] <;> omega

/-- R121: the row gives no drawer. -/
theorem DrawerMap.rowChoice_eq_none (m : DrawerMap) (dest : Nat) :
    m.rowChoice dest = none ↔
      ¬ (m.vacant (2 * (dest % 8) + 1) = true ∨ m.vacant (2 * (dest % 8) + 2) = true ∨
         m.takable dest (2 * (dest % 8) + 1) = true ∨ m.takable dest (2 * (dest % 8) + 2) = true) := by
  simp only [DrawerMap.rowChoice, destRow, drawerOfWay]
  rcases Bool.eq_false_or_eq_true (m.vacant (2 * (dest % 8) + 1)) with a | a <;>
  rcases Bool.eq_false_or_eq_true (m.vacant (2 * (dest % 8) + 2)) with b | b <;>
  rcases Bool.eq_false_or_eq_true (m.takable dest (2 * (dest % 8) + 1)) with x | x <;>
  rcases Bool.eq_false_or_eq_true (m.takable dest (2 * (dest % 8) + 2)) with y | y <;>
  simp [a, b, x, y]

/-- R121: an UNASSIGNED drawer with a known count. -/
theorem DrawerMap.vacant_iff (m : DrawerMap) (c : Nat) :
    m.vacant c = true ↔ (m.drawer c).state = .unassigned ∧ (m.drawer c).pile.isSome = true := by
  simp [DrawerMap.vacant]

/-- R121: an OPEN drawer of another destination with a set count of 0. -/
theorem DrawerMap.takable_iff (m : DrawerMap) (x c : Nat) : m.takable x c = true ↔
    (m.drawer c).state = .open ∧ (m.drawer c).dest ≠ some x ∧ (m.drawer c).pile.map Pile.count = some 0 := by
  simp [DrawerMap.takable, Drawer.empty, and_assoc]

/-- R129: rewriting a copy leaves every record. -/
theorem DrawerMap.drawer_rewriteNv (m : DrawerMap) (d c : Nat) : (m.rewriteNv d).drawer c = m.drawer c :=
  DrawerMap.drawer_congr (by simp) c

/-- R117: a use leaves every record. -/
theorem DrawerMap.drawer_use (m : DrawerMap) (d c : Nat) : (m.use d).drawer c = m.drawer c :=
  DrawerMap.drawer_congr (by simp) c

/-- R117: a use leaves every copy. -/
theorem DrawerMap.nvOf_use (m : DrawerMap) (d c : Nat) : (m.use d).nvOf c = m.nvOf c :=
  DrawerMap.nvOf_congr (by simp) c

/-- R129: writing a record leaves every copy. -/
theorem DrawerMap.nvOf_setDrawer (m : DrawerMap) (d : Nat) (r : Drawer) (c : Nat) : (m.setDrawer d r).nvOf c = m.nvOf c :=
  DrawerMap.nvOf_congr (by simp) c

/-- Markers read the same in maps with the same markers. -/
theorem DrawerMap.marker_congr {m k : DrawerMap} (h : m.markers = k.markers) (r : Nat) : m.marker r = k.marker r := by
  simp [DrawerMap.marker, h]

/-- R117: a written marker reads as written. -/
theorem DrawerMap.marker_setMarker (m : DrawerMap) (r e : Nat) (w : Way) (hr : r < 8) :
    (m.setMarker r w).marker e = if e = r then w else m.marker e := by
  unfold DrawerMap.setMarker DrawerMap.marker
  have h8 : r < Config.numRows := hr
  by_cases h : e = r
  · subst h; simp [h8]
  · simp [h8, h]; split <;> [rw [Vector.getElem_set_ne _ _ (by omega)]; rfl]

/-- R117: writing a marker leaves the tree. -/
theorem DrawerMap.setMarker_tree (m : DrawerMap) (r : Nat) (w : Way) : (m.setMarker r w).tree = m.tree := by
  unfold DrawerMap.setMarker; split <;> rfl

/-- R121, R117, R129: all that assigning a drawer by allocation does. -/
theorem DrawerMap.allocateTo_spec (m : DrawerMap) (d dest : Nat) (hd : 1 ≤ d ∧ d ≤ 20) :
    let k := (m.allocateTo d dest).1
    (m.allocateTo d dest).2 =
      [{ drawer := d, dest := some dest, before := (m.drawer d).dest, state := .open, locked := (m.drawer d).locked
         pile := (m.drawer d).pile, cause := .allocated }] ∧
    k.drawer d = { m.drawer d with dest := some dest, state := .open } ∧
    k.nvOf d = { dest := some dest, locked := (m.drawer d).locked } ∧
    (∀ c, c ≠ d → k.drawer c = m.drawer c ∧ k.nvOf c = m.nvOf c) ∧
    (d ≤ 16 → k.tree = m.tree ∧ k.marker ((d - 1) / 2) = (if d % 2 = 1 then .one else .two) ∧
      ∀ r, r ≠ (d - 1) / 2 → k.marker r = m.marker r) ∧
    (17 ≤ d → k.markers = m.markers ∧ k.tree =
              { upperPair := decide (d ≤ 18), second17 := if d ≤ 18 then decide (d = 17) else m.tree.second17
                second19 := if d ≤ 18 then m.tree.second19 else decide (d = 19) }) := by
  have ok : drawerOk d = true := by simp [drawerOk, Config.numDrawers]; omega
  simp only [DrawerMap.allocateTo, DrawerMap.change, DrawerMap.drawer_rewriteNv, DrawerMap.drawer_use, DrawerMap.nvOf_use,
    DrawerMap.nvOf_setDrawer, DrawerMap.drawer_setDrawer, DrawerMap.nvOf_rewriteNv, ok, and_self, if_true, true_and, and_true]
  refine ⟨?_, ?_, ?_⟩
  · intro c hc; simp [hc]
  · intro h
    have hf : isFlexible d = false := by simp [isFlexible]; omega
    simp only [DrawerMap.rewriteNv_tree, DrawerMap.use, hf, Bool.false_eq_true, if_false, DrawerMap.setMarker_tree,
      DrawerMap.setDrawer_tree, true_and]
    have hr (r : Nat) : DrawerMap.marker (DrawerMap.rewriteNv
          ((m.setDrawer d { m.drawer d with dest := some dest, state := .open }).setMarker (rowOf d) (wayOf d)) d) r =
        if r = (d - 1) / 2 then (if d % 2 = 1 then .one else .two) else m.marker r := by
      rw [DrawerMap.marker_congr (DrawerMap.rewriteNv_markers _ _), DrawerMap.marker_setMarker _ _ _ _ (by simp [rowOf]; omega)]
      rw [DrawerMap.marker_congr (DrawerMap.setDrawer_markers _ _ _)]; rfl
    simp only [hr, if_true, true_and]
    intro r h; simp [h]
  · intro h
    have hf : isFlexible d = true := by simp [isFlexible]; omega
    have : d = 17 ∨ d = 18 ∨ d = 19 ∨ d = 20 := by omega
    simp only [DrawerMap.rewriteNv_tree, DrawerMap.rewriteNv_markers, DrawerMap.use, hf, if_true,
      DrawerMap.setDrawer_markers, DrawerMap.setDrawer_tree, true_and]
    rcases this with rfl | rfl | rfl | rfl <;> simp [Tree.use]

/-- R121: the choice in the row reads vacancy, the empty OPEN drawers and the markers alone. -/
theorem DrawerMap.rowChoice_congr {m k : DrawerMap} {x : Nat} (h1 : k.vacant = m.vacant)
    (h2 : k.takable x = m.takable x) (h3 : k.markers = m.markers) :
    k.rowChoice x = m.rowChoice x := by
  have h4 : k.marker = m.marker := by funext r; exact DrawerMap.marker_congr h3 r
  unfold DrawerMap.rowChoice; rw [h1, h2, h4]

/-- R122: the choice among the flexible drawers reads vacancy, the empty OPEN drawers, the locks and the tree alone. -/
theorem DrawerMap.flexChoice_congr {m k : DrawerMap} {x : Nat} (h1 : k.vacant = m.vacant)
    (h2 : k.takable x = m.takable x) (h3 : k.tree = m.tree)
    (h4 : ∀ c, (k.drawer c).locked = (m.drawer c).locked) :
    k.flexChoice x = m.flexChoice x := by
  simp only [DrawerMap.flexChoice, h1, h2, h3, h4]

/-- R122: the drawer that allocation takes among the flexible drawers. -/
theorem DrawerMap.flexChoice_eq_some (m : DrawerMap) (x d : Nat) :
    let unlocked (c : Nat) : Prop := 17 ≤ c ∧ c ≤ 20 ∧ (m.drawer c).locked = false
    m.flexChoice x = some d ↔
      (unlocked d ∧ m.vacant d = true ∧ ∀ c, unlocked c → m.vacant c = true → d ≤ c) ∨
      ((∀ c, unlocked c → ¬ m.vacant c = true) ∧ unlocked d ∧ m.takable x d = true ∧
        (∀ c, unlocked c → m.takable x c = true → ¬ (19 ≤ c ↔ 19 ≤ d) → (m.tree.upperPair = true ↔ 19 ≤ d)) ∧
        (∀ c, unlocked c → m.takable x c = true → (19 ≤ c ↔ 19 ≤ d) → c ≠ d →
          d = if d ≤ 18 then (if m.tree.second17 = true then 18 else 17)
            else (if m.tree.second19 = true then 20 else 19))) := by
  intro unlocked
  unfold DrawerMap.flexChoice
  split
  · rename_i e he
    rw [find_flexible_eq_some] at he
    simp only [Bool.and_eq_true, Bool.not_eq_true'] at he
    obtain ⟨h1, h2, ⟨h3, h4⟩, h5⟩ := he
    have : d = e → (unlocked d ∧ m.vacant d = true ∧ ∀ c, unlocked c → m.vacant c = true → d ≤ c) := by
      rintro rfl; exact ⟨⟨h1, h2, h3⟩, h4, fun c hc hv => h5 c ⟨hc.1, hc.2.1⟩ ⟨hc.2.2, hv⟩⟩
    constructor
    · intro h; exact .inl (this (by injection h with h; exact h.symm))
    · rintro (⟨a, b, c⟩ | ⟨a, -⟩)
      · have q1 := c e ⟨h1, h2, h3⟩ h4
        have q2 := h5 d ⟨a.1, a.2.1⟩ ⟨a.2.2, b⟩
        rw [show e = d by omega]
      · exact absurd h4 (a e ⟨h1, h2, h3⟩)
  · rename_i hn
    rw [find_flexible_eq_none] at hn
    simp only [Bool.and_eq_false_iff, Bool.not_eq_false'] at hn
    have hno : ∀ c, unlocked c → ¬ m.vacant c = true := by
      intro c hc hv
      rcases hn c ⟨hc.1, hc.2.1⟩ with h | h
      · simp [hc.2.2] at h
      · simp [hv] at h
    rw [Tree.choose_eq_some]
    simp only [Bool.and_eq_true, Bool.not_eq_true']
    constructor
    · rintro ⟨a, b, ⟨c, d⟩, e, f⟩
      exact .inr ⟨hno, ⟨a, b, c⟩, d, fun x hx h1 => e x ⟨hx.1, hx.2.1⟩ ⟨hx.2.2, h1⟩,
        fun x hx h1 => f x ⟨hx.1, hx.2.1⟩ ⟨hx.2.2, h1⟩⟩
    · rintro (⟨a, b, -⟩ | ⟨-, a, b, c, d⟩)
      · exact absurd b (hno _ a)
      · exact ⟨a.1, a.2.1, ⟨a.2.2, b⟩, fun x hx h1 => c x ⟨hx.1, hx.2, h1.1⟩ h1.2,
          fun x hx h1 => d x ⟨hx.1, hx.2, h1.1⟩ h1.2⟩

/-- R122: the flexible drawers give none. -/
theorem DrawerMap.flexChoice_eq_none (m : DrawerMap) (x : Nat) :
    m.flexChoice x = none ↔
      ¬ ∃ c, (17 ≤ c ∧ c ≤ 20 ∧ (m.drawer c).locked = false) ∧ (m.vacant c = true ∨ m.takable x c = true) := by
  unfold DrawerMap.flexChoice
  split
  · rename_i e he
    rw [find_flexible_eq_some] at he
    simp only [Bool.and_eq_true, Bool.not_eq_true'] at he
    simp only [reduceCtorEq, false_iff, not_not]
    exact ⟨e, ⟨he.1, he.2.1, he.2.2.1.1⟩, .inl he.2.2.1.2⟩
  · rename_i hn
    rw [find_flexible_eq_none] at hn
    rw [Tree.choose_eq_none]
    simp only [Bool.and_eq_false_iff, Bool.not_eq_false'] at hn ⊢
    constructor
    · rintro h ⟨c, ⟨a, b, e⟩, f | f⟩
      · have := hn c ⟨a, b⟩; simp [e, f] at this
      · have := h c ⟨a, b⟩; simp [e, f] at this
    · intro h c hc
      by_contra hx
      simp at hx
      exact h ⟨c, ⟨hc.1, hc.2, hx.1⟩, .inr hx.2⟩

end Sys2Proof.Machine
end

