-- ==== Sys2Proof/Laws/Link.lean ====
section
/-! SUPPORT. What the operations of the press link can do: offering notices, handing an act's notices over, taking a request. -/

namespace Sys2Proof.Machine

/-! ## Queued notices -/

@[simp] theorem State.queued_part (s : State) (ns : List Notice) : (s.queued ns).part = s.part := rfl
@[simp] theorem State.queued_pending (s : State) (ns : List Notice) : (s.queued ns).pending = s.pending := rfl
@[simp] theorem State.queued_sending (s : State) (ns : List Notice) : (s.queued ns).link.sending = s.link.sending := rfl
@[simp] theorem State.queued_answer (s : State) (ns : List Notice) : (s.queued ns).link.answer = s.link.answer := rfl
@[simp] theorem State.queued_buffer (s : State) (ns : List Notice) : (s.queued ns).link.buffer = s.link.buffer := rfl

@[simp] theorem numbered_length (q : Byte) (ns : List Notice) : (numbered q ns).length = ns.length := by
  induction ns generalizing q with
  | nil => rfl
  | cons n ns ih => simp [numbered, ih]

@[simp] theorem State.queued_nil (s : State) : s.queued [] = s := by
  obtain ⟨p, l, q⟩ := s
  simp [State.queued, numbered]

theorem State.queued_cons (s : State) (n : Notice) (ns : List Notice) : s.queued (n :: ns) = (s.queued [n]).queued ns := by
  simp only [State.queued, numbered, List.append_assoc, List.singleton_append, List.length_cons, List.length_nil]
  congr 2
  simp [BitVec.ofNat_add]
  bv_omega

/-- R158: an offered notice is queued where the outbox has room. -/
theorem State.offer_of_room {s : State} (h : s.link.outbox.length < 32) (n : Notice) : s.offer n = s.queued [n] := by
  simp [State.offer, outboxLimit, h, State.queued, numbered]

/-- R158: a transmitter that sends is not disturbed. -/
theorem State.transmit_of_sending {s : State} (h : s.link.sending.isSome = true) : s.transmit = s := by
  obtain ⟨x, hx⟩ := Option.isSome_iff_exists.mp h
  simp [State.transmit, hx]

/-! ## Handing over -/

/-- The notices of an act are queued in order while a frame is in transmission and the outbox has room. -/
theorem State.foldl_offer {s : State} (ns : List Notice) (h : s.link.sending.isSome = true)
    (room : ns = [] ∨ s.link.outbox.length + ns.length ≤ 32) :
    ns.foldl (fun s n => (s.offer n).transmit) s = s.queued ns := by
  induction ns generalizing s with
  | nil => simp
  | cons n ns ih =>
    have room : s.link.outbox.length + (ns.length + 1) ≤ 32 := by simpa using room
    have hr : s.link.outbox.length < 32 := by omega
    rw [List.foldl_cons, State.offer_of_room hr, State.transmit_of_sending (by simpa using h), ih (by simpa using h),
      ← State.queued_cons]
    right
    simp [State.queued]
    omega

/-- What an act hands over, the link not being reset. -/
theorem State.flush_eq {s : State} (ns : List Notice) (out : s.part.out = { reset := false, notices := ns })
    (h : s.link.sending.isSome = true) (room : ns = [] ∨ s.link.outbox.length + ns.length ≤ 32) :
    s.flush = ({ s with part := { s.part with out := { reset := false, notices := [] } } } : State).queued ns := by
  simp only [State.flush, out]
  exact State.foldl_offer ns h room

/-- A settled part hands nothing over. -/
theorem State.flush_settled {s : State} (h : s.part.Settled) : s.flush = s := by
  obtain ⟨p, l, q⟩ := s
  simp only [Part.Settled] at h
  simp [State.flush, h]
  exact congrArg (fun o => { p with out := o }) h.symm

/-- An act while a frame is in transmission: its part, then its notices. -/
theorem State.act_eq {s : State} {f : Part → Part} (ns : List Notice) (out : (f s.part).out = { reset := false, notices := ns })
    (h : s.link.sending.isSome = true) (room : ns = [] ∨ s.link.outbox.length + ns.length ≤ 32) :
    s.act f = ({ s with part := { f s.part with out := { reset := false, notices := [] } } } : State).queued ns :=
  State.flush_eq ns out h room

/-- An act that raises nothing needs nothing of the link. -/
theorem State.act_settled {s : State} {f : Part → Part} (h : (f s.part).Settled) : s.act f = { s with part := f s.part } :=
  State.flush_settled h

/-! ## What handing over leaves -/

/-- R153, R158: offering a notice changes the outbox, the number and the attention set alone. -/
@[simp] theorem State.offer_frame (s : State) (n : Notice) :
    (s.offer n).link.rx = s.link.rx ∧ (s.offer n).link.buffer = s.link.buffer ∧ (s.offer n).link.answer = s.link.answer ∧
    (s.offer n).link.sending = s.link.sending ∧ (s.offer n).link.noise = s.link.noise ∧
    (s.offer n).link.overrun = s.link.overrun ∧ (s.offer n).pending = s.pending := by
  unfold State.offer State.loseNotice
  dsimp only
  split <;> [skip; split] <;> simp

/-- Offering a notice leaves every block but the fault block's attention set. -/
@[simp] theorem State.offer_part (s : State) (n : Notice) :
    (s.offer n).part = { s.part with faults := (s.offer n).part.faults } := by
  unfold State.offer State.loseNotice
  dsimp only
  split <;> [skip; split] <;> simp

/-- Handing over while a frame is in transmission keeps that frame and the waiting answer; the receive buffer is kept or
emptied. -/
theorem State.flush_sending {s : State} (h : s.link.sending.isSome = true) :
    s.flush.link.sending = s.link.sending ∧ s.flush.link.answer = s.link.answer ∧
    (s.flush.link.buffer = s.link.buffer ∨ s.flush.link.buffer = []) ∧ s.flush.pending = s.pending := by
  have key : ∀ (ns : List Notice) (x : State), x.link.sending.isSome = true →
      (ns.foldl (fun s n => (s.offer n).transmit) x).link.sending = x.link.sending ∧
      (ns.foldl (fun s n => (s.offer n).transmit) x).link.answer = x.link.answer ∧
      (ns.foldl (fun s n => (s.offer n).transmit) x).link.buffer = x.link.buffer ∧
      (ns.foldl (fun s n => (s.offer n).transmit) x).pending = x.pending := by
    intro ns
    induction ns with
    | nil => simp
    | cons n ns ih =>
      intro x hx
      have hx' : (x.offer n).link.sending.isSome = true := by simpa using hx
      rw [List.foldl_cons, State.transmit_of_sending hx']
      have := ih _ hx'
      simpa using this
  obtain ⟨p, l, w⟩ := s
  cases hr : p.out.reset
  · have := key p.out.notices { part := { p with out := { reset := false, notices := [] } }, link := l, pending := w } h
    simp only [State.flush, hr]
    simp_all
  · have := key p.out.notices { part := { p with out := { reset := false, notices := [] } }, link := l.reset, pending := w } h
    simp only [State.flush, hr]
    simp_all [Link.reset]

/-! ## A request on a free link -/

theorem requestOf_requestCode (r : RequestKind) : requestOf (requestCode r) = some r := by cases r <;> rfl

/-- R155: with an empty buffer nothing is taken. -/
theorem State.takeFrames_empty {s : State} (h : s.link.buffer = []) (n : Nat) : s.takeFrames n = s := by
  cases n with
  | zero => rfl
  | succ n => simp [State.takeFrames, h]

/-- R155: the one frame that waits is taken. -/
theorem State.pump_one {s : State} {body : List Byte} (hm : s.link.mayTake = true) (hb : s.link.buffer = [body])
    (he : (({ s with link := { s.link with buffer := [] } } : State).takeBody body).link.buffer = []) :
    s.pump = ({ s with link := { s.link with buffer := [] } } : State).takeBody body := by
  simp only [State.pump, hb, List.length_singleton, State.takeFrames, hm, if_true]
  split <;> simp_all

/-- An answer in transmission. -/
def State.sends (s : State) (a : Answer) : State := { s with link := { s.link with sending := some (.answer a) } }

/-- R156: a frame taken on a free link: its part, its answer in transmission, then its notices. -/
theorem State.takeBody_eq {s : State} (h : Free s) {body : List Byte} (q : Part) (a : Answer) (ns : List Notice) (hq : q.Settled)
    (e : s.answerTo body = ({ q with out := { reset := false, notices := ns } }, a))
    (room : ns = [] ∨ s.link.outbox.length + ns.length ≤ 32) :
    s.takeBody body = (({ s with part := q } : State).sends a).queued ns := by
  obtain ⟨p, ⟨rx, buffer, answer, sending, outbox, noise, overrun, seq⟩, w⟩ := s
  obtain ⟨hs, ha, hx, hb⟩ := h
  simp only at hs ha hx hb
  subst ha hx hb
  simp only [State.takeBody, e, State.transmit]
  rw [State.flush_eq ns (by rfl) (by rfl) (by exact room)]
  simp only [Part.Settled] at hq
  simp only [← hq, State.sends]

/-- R156: taking a frame on a free link puts its answer in transmission and leaves the buffer empty. -/
theorem State.takeBody_free {s : State} (h : Free s) (body : List Byte) :
    (s.takeBody body).link.sending = some (.answer (s.answerTo body).2) ∧ (s.takeBody body).link.answer = none ∧
    (s.takeBody body).link.buffer = [] := by
  obtain ⟨p, ⟨rx, buffer, answer, sending, outbox, noise, overrun, seq⟩, w⟩ := s
  obtain ⟨hs, ha, hx, hb⟩ := h
  simp only at hs ha hx hb
  subst ha hx hb
  have key : ∀ (x : State) (a : Answer), x.link.sending = some (.answer a) → x.link.answer = none → x.link.buffer = [] →
      x.flush.link.sending = some (.answer a) ∧ x.flush.link.answer = none ∧ x.flush.link.buffer = [] := by
    intro x a h1 h2 h3
    obtain ⟨k1, k2, k3, -⟩ := State.flush_sending (s := x) (by rw [h1]; rfl)
    exact ⟨k1.trans h1, k2.trans h2, k3.elim (·.trans h3) id⟩
  simp only [State.takeBody, State.transmit]
  exact key _ _ rfl rfl rfl

/-- R154, R155: a whole frame that arrives on a free link is taken at once. -/
theorem State.frameArrives_free {s : State} (h : Free s) {body : List Byte} (h0 : body ≠ []) (hl : body.length ≤ 250) :
    s.frameArrives body = s.takeBody body := by
  have hl : ¬ (body.length = 0 ∨ 250 < body.length) := by simp [h0]; omega
  have hs : ({ s with link := { s.link with buffer := [] } } : State) = s := by
    obtain ⟨p, ⟨rx, buffer, answer, sending, outbox, noise, overrun, seq⟩, w⟩ := s
    have hb := h.buffer
    simp only at hb
    subst hb
    rfl
  simp only [State.frameArrives, if_neg hl, State.complete, bufferLimit, h.buffer, List.length_nil, Nat.ofNat_pos, if_true,
    List.nil_append]
  rw [State.pump_one (body := body)]
  · simp only [hs]
  · simp [Link.mayTake, Link.restartOwed, h.answer, h.sending]
  · simp
  · simp only [hs]
    exact (State.takeBody_free h body).2.2

/-- R154 to R156: a whole frame arrives on a free link, its act leaves the settled part `q` and raises `ns`. -/
theorem State.frameArrives_eq {s : State} (h : Free s) {body : List Byte} (h0 : body ≠ []) (hl : body.length ≤ 250) (q : Part)
    (a : Answer) (ns : List Notice) (hq : q.Settled)
    (e : s.answerTo body = ({ q with out := { reset := false, notices := ns } }, a))
    (room : ns = [] ∨ s.link.outbox.length + ns.length ≤ 32) :
    s.frameArrives body = (({ s with part := q } : State).sends a).queued ns := by
  rw [State.frameArrives_free h h0 hl, State.takeBody_eq h q a ns hq e room]

/-- A request whose act leaves the settled part `q` and raises the notices `ns`. -/
theorem State.request_eq {s : State} (h : Free s) {r : RequestKind} (tag : Byte) {f : List Byte} (hf : f.length ≤ 248) (q : Part)
    (res : Result) (fs : ReplyFields) (ns : List Notice) (hq : q.Settled)
    (e : s.part.request s.link r f =
      { part := { q with out := { reset := false, notices := ns } }, reply := { result := res, fields := fs } })
    (room : ns = [] ∨ s.link.outbox.length + ns.length ≤ 32) :
    s.requestArrives r tag f = (({ s with part := q } : State).answered r tag res fs).queued ns :=
  State.frameArrives_eq h (by simp) (by simp; omega) q { kind := requestCode r, tag := tag, result := res, fields := fs } ns hq
    (by simp only [State.answerTo, requestOf_requestCode, e]) room

/-- A request whose act leaves a settled part and raises nothing. -/
theorem State.request_quiet {s : State} (h : Free s) {r : RequestKind} (tag : Byte) {f : List Byte} (hf : f.length ≤ 248)
    (q : Part) (res : Result) (fs : ReplyFields) (hq : q.Settled)
    (e : s.part.request s.link r f = { part := q, reply := { result := res, fields := fs } }) :
    s.requestArrives r tag f = ({ s with part := q } : State).answered r tag res fs := by
  have := State.request_eq h tag hf q res fs [] hq (by rw [e]; simp only [Part.Settled] at hq; rw [← hq]) (.inl rfl)
  simpa using this

/-- R156: the answer to a request on a free link is in transmission. -/
theorem State.requestArrives_sending {s : State} (h : Free s) (r : RequestKind) (tag : Byte) {f : List Byte}
    (hf : f.length ≤ 248) :
    (s.requestArrives r tag f).link.sending = some (.answer
      { kind := requestCode r, tag := tag, result := (s.part.request s.link r f).reply.result
        fields := (s.part.request s.link r f).reply.fields }) := by
  rw [State.requestArrives, State.frameArrives_free h (by simp) (by simp; omega), (State.takeBody_free h _).1]
  simp only [State.answerTo, requestOf_requestCode]

/-- R145: the modes that accept a request, as a list. -/
theorem modeAccepts_iff (m : Mode) (r : RequestKind) : modeAccepts m r = true ↔ m ∈ acceptingModes r := by
  cases m <;> cases r <;> decide

/-- The sensors sampled before a request leave a free link free. -/
theorem Free.sensed {s : State} (h : Free s) (r : RequestKind) (occ : Occupancy) : Free (s.sensed r occ) := by
  unfold State.sensed
  split
  · exact ⟨h.settled, h.answer, h.sending, h.buffer⟩
  · exact h

/-- A request command is the arrival of its frame. -/
theorem exec_requestCommand (s : State) (r : RequestKind) (tag : Byte) (f : List Byte) (occ : Occupancy) :
    exec (requestCommand r tag f occ) s = .next ((s.sensed r occ).requestArrives r tag f) := by
  cases r <;> rfl

/-! ## The part after an act -/

/-- What offering a notice changes: the outbox and the number, and in the part the attention set alone. -/
theorem State.offer_same (x : State) (n : Notice) :
    (x.offer n).pending = x.pending ∧ (x.offer n).link.rx = x.link.rx ∧ (x.offer n).link.buffer = x.link.buffer ∧
    (x.offer n).part = { x.part with faults := x.part.faults.sameRecord (x.offer n).part.faults } := by
  unfold State.offer State.loseNotice
  dsimp only
  (repeat' split) <;> exact ⟨rfl, rfl, rfl, rfl⟩

/-- What the transmitter's turn leaves. -/
theorem State.transmit_same (y : State) :
    y.transmit.pending = y.pending ∧ y.transmit.link.rx = y.link.rx ∧ y.transmit.link.buffer = y.link.buffer ∧
    y.transmit.part = { y.part with faults := y.part.faults.sameRecord y.transmit.part.faults } := by
  unfold State.transmit
  split
  · exact ⟨rfl, rfl, rfl, rfl⟩
  · split
    · exact ⟨rfl, rfl, rfl, rfl⟩
    · unfold State.payOwed
      dsimp only
      split
      · exact ⟨rfl, rfl, rfl, rfl⟩
      · next set _ =>
        obtain ⟨h1, h2, h3, h4⟩ := State.offer_same
          ({ y with
            part := { y.part with faults := { y.part.faults with owed := none } }
            link := { y.link with sending := some (.notice _), outbox := _ } } : State) (.attnRaised .noticeLost set)
        refine ⟨h1, h2, h3, ?_⟩
        refine h4.trans ?_
        rfl
    · exact ⟨rfl, rfl, rfl, rfl⟩

/-- An act without a reset of the link: its part, but for the attention set and an owed notice (R153). -/
theorem State.act_part {s : State} {f : Part → Part} (h : (f s.part).out.reset = false) :
    (s.act f).pending = s.pending ∧ (s.act f).link.rx = s.link.rx ∧ (s.act f).link.buffer = s.link.buffer ∧
    (s.act f).part =
      { f s.part with
        faults := (f s.part).faults.sameRecord (s.act f).part.faults, out := { reset := false, notices := [] } } := by
  unfold State.act State.flush
  simp only [h, Bool.false_eq_true, if_false]
  have key : ∀ (ns : List Notice) (x : State),
      (ns.foldl (fun s n => (s.offer n).transmit) x).pending = x.pending ∧
      (ns.foldl (fun s n => (s.offer n).transmit) x).link.rx = x.link.rx ∧
      (ns.foldl (fun s n => (s.offer n).transmit) x).link.buffer = x.link.buffer ∧
      (ns.foldl (fun s n => (s.offer n).transmit) x).part =
        { x.part with
          faults := x.part.faults.sameRecord (ns.foldl (fun s n => (s.offer n).transmit) x).part.faults } := by
    intro ns
    induction ns with
    | nil => intro x; exact ⟨rfl, rfl, rfl, rfl⟩
    | cons n ns ih =>
      intro x
      obtain ⟨h1, h2, h3, h4⟩ := ih ((x.offer n).transmit)
      simp only [List.foldl_cons]
      have t := State.transmit_same
      have o := State.offer_same x n
      obtain ⟨a1, a2, a3, a4⟩ := t (x.offer n)
      obtain ⟨b1, b2, b3, b4⟩ := o
      refine ⟨by rw [h1, a1, b1], by rw [h2, a2, b2], by rw [h3, a3, b3], ?_⟩
      rw [h4, a4, b4]
      rfl
  obtain ⟨h1, h2, h3, h4⟩ := key (f s.part).out.notices
    { s with part := { f s.part with out := { reset := false, notices := [] } } }
  exact ⟨h1, h2, h3, h4⟩

/-- R151: an act that ends in a latch, while a frame is in transmission. -/
theorem State.act_latch {s : State} {f : Part → Part} {c : Condition} (q : Part) (e : f s.part = q.latch c)
    (hq : q.Settled) (hb : s.link.sending.isSome = true) (hr : s.link.outbox.length + 1 ≤ 32) :
    s.act f = ({ s with part := q } : State).latched c := by
  unfold Part.Settled at hq
  unfold State.latched
  unfold Part.latch at e
  split at e
  · next h => rw [State.act_settled (by rw [e]; exact hq), e]; simp [h]
  · next h =>
    simp only [h]
    dsimp only at e
    split at e
    · next h2 =>
      rw [State.act_eq [.attnRaised c (q.faults.attention ||| conditionMask c)] (by rw [e]; simp [Part.raise, hq]) hb
        (.inr (by simpa using hr)), e]
      simp only [h2, if_true]
      simp [Part.raise, conditionMask, ← hq]
    · next h2 =>
      rw [State.act_settled (by rw [e]; exact hq), e]
      simp only [h2]
      rfl

end Sys2Proof.Machine
end

