-- ==== Sys2Proof/Laws/Requests.lean ====
section
/-! SUPPORT. What the acts of requests can do: a refused act leaves the part and carries no field. -/

namespace Sys2Proof.Machine

/-- R157: a result code of refusal. -/
def Result.Refuses (r : Result) : Prop := 16 ≤ resultCode r

/-- An act is one of a refusal that leaves the part, and an acceptance. -/
def Acted.Fair (a : Acted) (p : Part) : Prop := a.reply.result.Refuses → a.part = p ∧ a.reply.fields = .empty

@[simp] theorem Part.refuse_fair (p : Part) (r : Result) : (p.refuse r).Fair p := fun _ => ⟨rfl, rfl⟩

theorem Part.accept_fair (p q : Part) {r : Result} (fs : ReplyFields) (h : resultCode r ≤ 2) : (q.accept r fs).Fair p := by
  intro hr
  exact absurd hr (by simp only [Part.accept, Result.Refuses]; omega)

theorem Part.identify_fair (p : Part) : p.identify.Fair p := Part.accept_fair _ _ _ (by decide)

theorem Part.stateQuery_fair (p : Part) (l : Link) (f : List Byte) : (p.stateQuery l f).Fair p := by
  unfold Part.stateQuery
  split
  · exact Part.accept_fair _ _ _ (by decide)
  · exact Part.refuse_fair _ _

theorem Part.optionSet_fair (p : Part) (f : List Byte) : (p.optionSet f).Fair p := by
  unfold Part.optionSet
  dsimp only
  split
  · refine Part.accept_fair _ _ _ ?_
    split <;> decide
  · split <;> [exact Part.accept_fair _ _ _ (by decide); exact Part.refuse_fair _ _]
  · split <;> [exact Part.accept_fair _ _ _ (by decide); exact Part.refuse_fair _ _]
  · exact Part.refuse_fair _ _

theorem Part.jobOpen_fair (p : Part) (f : List Byte) : (p.jobOpen f).Fair p := by
  unfold Part.jobOpen
  split
  · exact Part.refuse_fair _ _
  · split
    · exact Part.refuse_fair _ _
    · split <;> [exact Part.refuse_fair _ _; exact Part.accept_fair _ _ _ (by decide)]

theorem Part.closeJob_fair (p : Part) (j : Job) : (p.closeJob j).Fair p := by
  unfold Part.closeJob
  dsimp only
  split <;> exact Part.accept_fair _ _ _ (by decide)

theorem Part.jobClose_fair (p : Part) (f : List Byte) : (p.jobClose f).Fair p := by
  unfold Part.jobClose
  split
  · exact Part.refuse_fair _ _
  · split
    · exact Part.closeJob_fair _ _
    · exact Part.closeJob_fair _ _
    · exact Part.closeJob_fair _ _
    · exact Part.accept_fair _ _ _ (by decide)
    all_goals exact Part.refuse_fair _ _

theorem Part.jobHold_fair (p : Part) (f : List Byte) : (p.jobHold f).Fair p := by
  unfold Part.jobHold Part.holdJob
  split
  · exact Part.refuse_fair _ _
  · split
    · exact Part.accept_fair _ _ _ (by decide)
    · exact Part.accept_fair _ _ _ (by decide)
    · exact Part.accept_fair _ _ _ (by decide)
    all_goals exact Part.refuse_fair _ _

theorem Part.jobRelease_fair (p : Part) (f : List Byte) : (p.jobRelease f).Fair p := by
  unfold Part.jobRelease
  split
  · exact Part.refuse_fair _ _
  · split
    · exact Part.accept_fair _ _ _ (by decide)
    · exact Part.accept_fair _ _ _ (by decide)
    · exact Part.accept_fair _ _ _ (by decide)
    all_goals exact Part.refuse_fair _ _

theorem Part.jobCancel_fair (p : Part) (f : List Byte) : (p.jobCancel f).Fair p := by
  unfold Part.jobCancel
  split
  · exact Part.refuse_fair _ _
  · split
    · exact Part.accept_fair _ _ _ (by decide)
    · exact Part.accept_fair _ _ _ (by decide)
    · exact Part.accept_fair _ _ _ (by decide)
    · exact Part.accept_fair _ _ _ (by decide)
    · exact Part.accept_fair _ _ _ (by decide)
    · exact Part.accept_fair _ _ _ (by decide)
    · exact Part.refuse_fair _ _

theorem Part.runPost_fair (p : Part) (f : List Byte) : (p.runPost f).Fair p := by
  unfold Part.runPost
  dsimp only
  split
  · exact Part.refuse_fair _ _
  · refine Part.accept_fair _ _ _ ?_
    unfold RunPostFields.result
    split <;> decide

theorem Part.runWithdraw_fair (p : Part) (f : List Byte) : (p.runWithdraw f).Fair p := by
  unfold Part.runWithdraw
  dsimp only
  split
  · exact Part.accept_fair _ _ _ (by decide)
  · split
    · exact Part.accept_fair _ _ _ (by decide)
    · exact Part.refuse_fair _ _

theorem Part.stockSet_fair (p : Part) (f : List Byte) : (p.stockSet f).Fair p := by
  unfold Part.stockSet
  dsimp only
  split
  · exact Part.refuse_fair _ _
  · refine Part.accept_fair _ _ _ ?_
    split <;> [decide; (split <;> decide)]

theorem Part.wireLoad_fair (p : Part) (f : List Byte) : (p.wireLoad f).Fair p := by
  unfold Part.wireLoad
  refine Part.accept_fair _ _ _ ?_
  split <;> decide

theorem Part.drawerLock_fair (p : Part) (f : List Byte) : (p.drawerLock f).Fair p := by
  unfold Part.drawerLock
  dsimp only
  split
  · exact Part.refuse_fair _ _
  · split <;> exact Part.accept_fair _ _ _ (by decide)

theorem Part.drawerUnlock_fair (p : Part) (f : List Byte) : (p.drawerUnlock f).Fair p := by
  unfold Part.drawerUnlock
  dsimp only
  split
  · exact Part.refuse_fair _ _
  · split
    · exact Part.refuse_fair _ _
    · split <;> exact Part.accept_fair _ _ _ (by decide)

theorem Part.attnClear_fair (p : Part) (f : List Byte) : (p.attnClear f).Fair p := by
  unfold Part.attnClear
  split <;> [exact Part.refuse_fair _ _; exact Part.accept_fair _ _ _ (by decide)]

theorem Part.faultClear_fair (p : Part) : p.faultClear.Fair p := Part.accept_fair _ _ _ (by decide)

theorem Part.resume_fair (p : Part) : p.resume.Fair p := by
  unfold Part.resume
  split
  · exact Part.accept_fair _ _ _ (by decide)
  · split
    · exact Part.refuse_fair _ _
    · split
      · exact Part.refuse_fair _ _
      · exact Part.accept_fair _ _ _ (by decide)

theorem Part.parkRequest_fair (p : Part) : p.parkRequest.Fair p := by
  unfold Part.parkRequest
  dsimp only
  split
  · split <;> exact Part.accept_fair _ _ _ (by decide)
  · exact Part.accept_fair _ _ _ (by decide)
  · exact Part.accept_fair _ _ _ (by decide)
  all_goals exact Part.refuse_fair _ _

theorem Part.restartRequest_fair (p : Part) : p.restartRequest.Fair p := Part.accept_fair _ _ _ (by decide)

/-- R156, R157: a refused request leaves the part as it is and carries no field. -/
theorem Part.request_fair (p : Part) (l : Link) (r : RequestKind) (f : List Byte) : (p.request l r f).Fair p := by
  unfold Part.request
  split
  · exact Part.refuse_fair _ _
  · split
    · exact Part.refuse_fair _ _
    · cases r
      · exact p.identify_fair
      · exact p.stateQuery_fair l f
      · exact p.optionSet_fair f
      · exact p.jobOpen_fair f
      · exact p.jobClose_fair f
      · exact p.jobHold_fair f
      · exact p.jobRelease_fair f
      · exact p.jobCancel_fair f
      · exact p.runPost_fair f
      · exact p.runWithdraw_fair f
      · exact p.stockSet_fair f
      · exact p.wireLoad_fair f
      · exact p.drawerLock_fair f
      · exact p.drawerUnlock_fair f
      · exact p.attnClear_fair f
      · exact p.faultClear_fair
      · exact p.resume_fair
      · exact p.parkRequest_fair
      · exact p.restartRequest_fair

end Sys2Proof.Machine
end

