-- ==== Sys2Proof/Laws/Service.lean ====
section
/-! SUPPORT. What the bookkeeping of an entry to SERVICE (R54, R136) and the taking of a fault (R146, R149) leave: outside
AUTOMATIC and PARKED no check moves the mechanism, so the queues, the records of bins, jobs and runs, and the notices change
alone. -/

namespace Sys2Proof.Machine

/-- `q` is `p` but for the records of bins, jobs and runs, the entries of the stitch and eject queues, flags of the attention set,
and notices. -/
structure Part.Still (p q : Part) : Prop where
  now      : q.now = p.now
  lines    : q.lines = p.lines
  ctl      : q.ctl = p.ctl
  path     : q.path = p.path
  stock    : q.stock = p.stock
  drawers  : q.drawers = p.drawers
  carriage : q.carriage = { p.carriage with queue := q.carriage.queue }
  conv     : q.conv = { p.conv with queue := q.conv.queue }
  faults   : q.faults = p.faults.sameRecord q.faults
  reset    : q.out.reset = p.out.reset

theorem FaultBlock.sameRecord_trans {f g h : FaultBlock} (h1 : g = f.sameRecord g) (h2 : h = g.sameRecord h) :
    h = f.sameRecord h := by
  rw [h1] at h2
  exact h2

theorem Part.Still.refl (p : Part) : p.Still p := ⟨rfl, rfl, rfl, rfl, rfl, rfl, rfl, rfl, rfl, rfl⟩

theorem Part.Still.trans {p q r : Part} (h : p.Still q) (k : q.Still r) : p.Still r := by
  refine ⟨k.now.trans h.now, k.lines.trans h.lines, k.ctl.trans h.ctl, k.path.trans h.path, k.stock.trans h.stock,
    k.drawers.trans h.drawers, ?_, ?_, FaultBlock.sameRecord_trans h.faults k.faults, k.reset.trans h.reset⟩
  · rw [k.carriage, h.carriage]
  · rw [k.conv, h.conv]

/-- No check moves the mechanism and nothing wakes it. -/
def Part.Rests (p : Part) : Prop := p.ctl.mode ≠ .automatic ∧ p.ctl.mode ≠ .parked

theorem Part.Still.rests {p q : Part} (h : p.Still q) (r : p.Rests) : q.Rests := by
  unfold Part.Rests
  rw [h.ctl]
  exact r

theorem Part.still_raise (p : Part) (n : Notice) : p.Still (p.raise n) := ⟨rfl, rfl, rfl, rfl, rfl, rfl, rfl, rfl, rfl, rfl⟩

theorem Part.still_setBin (p : Part) (b : Nat) (r : Bin) : p.Still (p.setBin b r) := by
  unfold Part.setBin
  split <;> exact ⟨rfl, rfl, rfl, rfl, rfl, rfl, rfl, rfl, rfl, rfl⟩

theorem Part.still_setBinState (p : Part) (b : Nat) (st : BinState) : p.Still (p.setBinState b st) := p.still_setBin b _

theorem Part.still_modSet (p : Part) (b : Nat) (f : SetRecord → SetRecord) : p.Still (p.modSet b f) := p.still_setBin b _

theorem Part.still_modJob (p : Part) (n : Nat) (f : Job → Job) : p.Still (p.modJob n f) :=
  ⟨rfl, rfl, rfl, rfl, rfl, rfl, rfl, rfl, rfl, rfl⟩

theorem Part.still_modJobOf (p : Part) (n : Option Nat) (f : Job → Job) : p.Still (p.modJobOf n f) := by
  unfold Part.modJobOf
  split
  · exact p.still_modJob _ _
  · exact .refl p

theorem Part.still_latch (p : Part) (c : Condition) : p.Still (p.latch c) := by
  unfold Part.latch
  dsimp only
  (repeat' split) <;> exact ⟨rfl, rfl, rfl, rfl, rfl, rfl, rfl, rfl, rfl, rfl⟩

theorem Part.still_latchIf (p : Part) (b : Bool) (c : Condition) : p.Still (p.latchIf b c) := by
  unfold Part.latchIf
  split
  · exact p.still_latch c
  · exact .refl p

theorem Part.still_assignBins (n : Nat) (bs : List Nat) (p : Part) (k : Nat) : p.Still (p.assignBins n k bs) := by
  induction bs generalizing p k with
  | nil => exact .refl p
  | cons b bs ih => exact (p.still_setBin _ _).trans (ih _ _)

theorem Part.still_grant (p : Part) (j : Job) (rest : List Nat) : p.Still (p.grant j rest) := by
  unfold Part.grant
  extract_lets bins src p1 p2
  have h : p.Still p2 := ⟨rfl, rfl, rfl, rfl, rfl, rfl, rfl, rfl, rfl, rfl⟩
  exact (h.trans (Part.still_assignBins ..)).trans (Part.still_raise _ _)

theorem Part.still_grantCheckN (n : Nat) (p : Part) : p.Still (Part.grantCheckN n p) := by
  induction n generalizing p with
  | zero => exact .refl p
  | succ n ih =>
    unfold Part.grantCheckN
    split
    · exact .refl p
    · split
      · exact .refl p
      · split
        · exact (p.still_grant _ _).trans (ih _)
        · exact .refl p

theorem Part.still_testEnd (p : Part) (n : Nat) : p.Still (p.testEnd n) := by
  unfold Part.testEnd
  (repeat' split) <;> exact ⟨rfl, rfl, rfl, rfl, rfl, rfl, rfl, rfl, rfl, rfl⟩

theorem Part.still_freeBin (p : Part) (b : Nat) (f : Tallies → Tallies) : p.Still (p.freeBin b f) := by
  unfold Part.freeBin
  dsimp only
  split
  · exact (((p.still_setBin _ _).trans (Part.still_modJob _ _ _)).trans (Part.still_testEnd _ _)).trans
      (Part.still_grantCheckN _ _)
  · exact (p.still_setBin _ _).trans (Part.still_grantCheckN _ _)

theorem Part.still_joinEject {p : Part} (r : p.Rests) (b : Nat) : p.Still (p.joinEject b) := by
  unfold Part.joinEject
  have : (p.appendEject b).Rests := r
  rw [Part.wake_of_ne this.2, Part.choiceCheck_of_not fun h => absurd h this.1]
  exact ⟨rfl, rfl, rfl, rfl, rfl, rfl, rfl, rfl, rfl, rfl⟩

theorem Part.still_joinStitch {p : Part} (r : p.Rests) (b : Nat) : p.Still (p.joinStitch b) := by
  have h : p.Still ((p.insertTail b).latchWireOut p.wireOutLevel) :=
    Part.Still.trans (q := p.insertTail b) ⟨rfl, rfl, rfl, rfl, rfl, rfl, rfl, rfl, rfl, rfl⟩ (Part.still_latchIf _ _ _)
  have r' := h.rests r
  unfold Part.joinStitch
  dsimp only
  rw [Part.wake_of_ne r'.2, Part.takeCheck_of_not fun h => absurd h r'.1]
  exact h

theorem Part.still_completeBin {p : Part} (r : p.Rests) (pa : Pattern) (di : DisorderRule) (b : Nat) :
    p.Still (p.completeBin pa di b) := by
  unfold Part.completeBin
  dsimp only
  split
  · exact p.still_freeBin _ _
  · split
    · refine Part.Still.trans ?_ (Part.still_joinEject ?_ b)
      · exact (p.still_modSet _ _).trans (Part.still_setBinState _ _ _)
      · exact ((p.still_modSet _ _).trans (Part.still_setBinState _ _ _)).rests r
    · refine Part.Still.trans ?_ (Part.still_joinStitch ?_ b)
      · exact (p.still_modSet _ _).trans (Part.still_setBinState _ _ _)
      · exact ((p.still_modSet _ _).trans (Part.still_setBinState _ _ _)).rests r

/-- Acts that each leave the mechanism still leave it so together. -/
theorem Part.still_foldl {α : Type} {f : Part → α → Part} (hf : ∀ (p : Part) (a : α), p.Rests → p.Still (f p a)) (as : List α) {p : Part}
    (r : p.Rests) : p.Still (as.foldl f p) := by
  induction as generalizing p with
  | nil => exact .refl p
  | cons a as ih => exact (hf p a r).trans (ih ((hf p a r).rests r))

theorem Part.still_closeTakesEffect {p : Part} (r : p.Rests) (n : Nat) : p.Still (p.closeTakesEffect n) := by
  unfold Part.closeTakesEffect
  split
  · exact .refl p
  · exact ((p.still_modJob n _).trans
      (Part.still_foldl (fun q b hq => Part.still_completeBin hq _ _ b) _ ((p.still_modJob n _).rests r))).trans
      (Part.still_testEnd _ _)

theorem Part.still_runDeparted {p : Part} (r : p.Rests) (n : Nat) : p.Still (p.runDeparted n) := by
  unfold Part.runDeparted
  split
  · exact .refl p
  · split
    · split
      · exact .refl p
      · exact Part.still_closeTakesEffect r n
    · exact p.still_testEnd n
    · exact .refl p

theorem Part.still_completeAll {p : Part} (r : p.Rests) (rs : List Run) : p.Still (p.completeAll rs) := by
  have h := Part.still_foldl (f := fun (p : Part) (r : Run) => p.raise r.done) (fun p a _ => p.still_raise _) rs r
  exact h.trans (Part.still_foldl (fun p a hp => Part.still_runDeparted hp _) rs (h.rests r))

theorem Part.still_completeSettled {p : Part} (r : p.Rests) : p.Still p.completeSettled := by
  unfold Part.completeSettled
  dsimp only
  refine Part.Still.trans ?_ (Part.still_completeAll ?_ _)
  · exact ⟨rfl, rfl, rfl, rfl, rfl, rfl, rfl, rfl, rfl, rfl⟩
  · exact r

theorem Part.still_finishVoid {p : Part} (r : p.Rests) (b : Nat) : p.Still (p.finishVoid b) := by
  unfold Part.finishVoid
  refine Part.Still.trans ?_ (Part.still_joinEject ?_ b)
  · exact (p.still_modSet _ _).trans (Part.still_setBinState _ _ _)
  · exact ((p.still_modSet _ _).trans (Part.still_setBinState _ _ _)).rests r

theorem Part.still_releaseReservation {p : Part} (r : p.Rests) (b c : Nat) : p.Still (p.releaseReservation b c) := by
  unfold Part.releaseReservation
  extract_lets p1 s1
  have h : p.Still p1 := p.still_modSet _ _
  split
  · split
    · exact h.trans (Part.still_freeBin _ _ _)
    · exact h.trans (Part.still_finishVoid (h.rests r) b)
  · exact h

theorem Part.still_loseReservation {p : Part} (r : p.Rests) (t : Ticket) : p.Still (p.loseReservation t) := by
  unfold Part.loseReservation
  split
  · exact Part.still_releaseReservation r _ _
  · exact .refl p

theorem Part.still_reportLost (p : Part) (t : Ticket) : p.Still (p.reportLost t) := by
  unfold Part.reportLost
  split
  · exact ⟨rfl, rfl, rfl, rfl, rfl, rfl, rfl, rfl, rfl, rfl⟩
  · exact .refl p

/-- R54: what the loss of the tickets does to the sort path; the mechanism stays still. -/
theorem Part.loseTickets_spec {p : Part} (r : p.Rests) (before : Mode) :
    (p.loseTickets before).path =
      { p.path with
        tickets := [], account := p.path.account.flightToLost p.path.tickets.length, unticketed := 0, stopped := false
        gate := .released } ∧
    { p with path := (p.loseTickets before).path }.Still (p.loseTickets before) := by
  unfold Part.loseTickets
  extract_lets ts p1 src p2 p3 p4 p5
  have h1 : p.Still p1 := by
    simp only [p1]
    split
    · exact p.still_raise _
    · exact .refl p
  have e3 : p3 = { p1 with path :=
      { p.path with tickets := [], account := p.path.account.flightToLost p.path.tickets.length } } := by
    simp only [p3, p2, src, Part.modAccount, h1.path, ts]
  have r3 : p3.Rests := by
    have := h1.rests r
    rw [e3]
    exact this
  have h4 : p3.Still p4 := Part.still_foldl (fun q t hq => Part.still_loseReservation hq t) ts r3
  have h5' : p3.Still (ts.foldl Part.reportLost p4) :=
    h4.trans (Part.still_foldl (fun q t _ => q.still_reportLost t) ts (h4.rests r3))
  have h5 : p3.Still p5 := h5'.trans (Part.still_completeSettled (h5'.rests r3))
  have path5 : p5.path =
      { p.path with tickets := [], account := p.path.account.flightToLost p.path.tickets.length } := by
    rw [h5.path, e3]
  refine ⟨?_, ?_⟩
  · change ({ p5.path with unticketed := 0, stopped := false, gate := .released } : SortPath) = _
    rw [path5]
  rw [e3] at h5
  exact ⟨h5.now.trans h1.now, h5.lines.trans h1.lines, h5.ctl.trans h1.ctl, rfl, h5.stock.trans h1.stock,
    h5.drawers.trans h1.drawers, h5.carriage.trans (by rw [h1.carriage]), h5.conv.trans (by rw [h1.conv]),
    FaultBlock.sameRecord_trans h1.faults h5.faults, h5.reset.trans h1.reset⟩

/-- The carriage after an entry to SERVICE (R97), its stitch queue being `queue`. -/
def Carriage.intoService (c : Carriage) (queue : List Nat) : Carriage :=
  if c.state = .travelling then
    { c with
      queue := queue, state := .stopped, position := .unknown, target := none, deadline := none
      held := c.held.map fun h => { h with cond := .interrupted } }
  else { c with queue := queue }

/-- The conveyor after an entry to SERVICE (R113), its eject queue being `queue`. -/
def Conveyor.intoService (c : Conveyor) (queue : List EjectEntry) : Conveyor :=
  match c.state with
  | .slip =>
    { c with
      queue := queue, state := .stopped, feeder := .idle
      trip := c.trip.map fun t => { t with header := some .pending, deadline := none } }
  | .carrying => { c with queue := queue, state := .stopped, trip := c.trip.map fun t => { t with deadline := none } }
  | .idle | .stopped => { c with queue := queue }

/-- R136: an entry to SERVICE. -/
theorem Part.enterService_spec (p : Part) (cause : ModeCause) (fault : Option FaultKind) :
    let q := p.enterService cause fault
    q.now = p.now ∧ q.lines = p.lines ∧
    q.ctl = { p.ctl with
      mode := .service, parkPending := false, idleTimer := none, wakingDeadline := none } ∧
    q.path = { p.path with
      tickets := [], account := p.path.account.flightToLost p.path.tickets.length, unticketed := 0, stopped := false
      gate := .released } ∧
    q.stock = p.stock ∧ q.drawers = p.drawers ∧ q.carriage = p.carriage.intoService q.carriage.queue ∧
    q.conv = p.conv.intoService q.conv.queue ∧ q.faults = p.faults.sameRecord q.faults ∧ q.out.reset = p.out.reset := by
  have key : ∀ r : Part, r.Rests → ∀ m : Mode, let q := ((r.loseTickets m).carriageService).stopConveyor
      q.now = r.now ∧ q.lines = r.lines ∧ q.ctl = r.ctl ∧
      q.path = { r.path with
        tickets := [], account := r.path.account.flightToLost r.path.tickets.length, unticketed := 0, stopped := false
        gate := .released } ∧
      q.stock = r.stock ∧ q.drawers = r.drawers ∧ q.carriage = r.carriage.intoService q.carriage.queue ∧
      q.conv = r.conv.intoService q.conv.queue ∧ q.faults = r.faults.sameRecord q.faults ∧ q.out.reset = r.out.reset := by
    intro r hr m
    obtain ⟨hp, hs⟩ := Part.loseTickets_spec hr m
    have a : ∀ x : Part, r.carriage.state = x.carriage.state →
        x.carriage = { r.carriage with queue := x.carriage.queue } → x.conv = { r.conv with queue := x.conv.queue } →
        let q := x.carriageService.stopConveyor
        q.now = x.now ∧ q.lines = x.lines ∧ q.ctl = x.ctl ∧ q.path = x.path ∧ q.stock = x.stock ∧ q.drawers = x.drawers ∧
        q.carriage = r.carriage.intoService q.carriage.queue ∧ q.conv = r.conv.intoService q.conv.queue ∧
        q.faults = x.faults ∧ q.out = x.out := by
      intro x h1 h2 h3
      obtain ⟨now, lines, ctl, jobs, runs, path, bins, stock, ⟨cq, cs, cp, ch, ct, cd, cw⟩, ⟨vq, vs, vt, vf, vl, vo, vy⟩, drawers,
        faults, out⟩ := x
      simp only [Carriage.mk.injEq, Conveyor.mk.injEq, true_and] at h2 h3
      obtain ⟨rfl, rfl, rfl, rfl, rfl, rfl⟩ := h2
      obtain ⟨rfl, rfl, rfl, rfl, rfl, rfl⟩ := h3
      unfold Part.carriageService Part.stopDrive Carriage.intoService Conveyor.intoService Part.stopConveyor
      by_cases hc : r.carriage.state = .travelling <;> cases hv : r.conv.state <;> simp [hc]
    have := a (r.loseTickets m) (by rw [hs.carriage]) hs.carriage hs.conv
    obtain ⟨h1, h2, h3, h4, h5, h6, h7, h8, h9, h10⟩ := this
    exact ⟨h1.trans hs.now, h2.trans hs.lines, h3.trans hs.ctl, h4.trans hp, h5.trans hs.stock, h6.trans hs.drawers, h7, h8,
      by rw [h9]; exact hs.faults, by rw [h10]; exact hs.reset⟩
  exact key _ ⟨by simp [Part.changeMode], by simp [Part.changeMode]⟩ p.ctl.mode

/-! ## Faults -/

/-- R147, R148, R138: a fault is recorded: the record, the door cycle it owes, and its FAULT_NOTE. -/
theorem Part.recordFault_spec (p : Part) (e : FaultEntry) :
    (p.recordFault e).faults = p.faults.enter e ∧
    (p.recordFault e).ctl = { p.ctl with doorCycle := if owesDoorCycle e.kind then .owed else p.ctl.doorCycle } ∧
    (p.recordFault e).out =
      { p.out with notices := p.out.notices ++ [.faultNote e (p.faults.effect e.kind)] } := by
  unfold Part.recordFault
  dsimp only
  split <;> exact ⟨rfl, rfl, rfl⟩

/-- R147: a recoverable fault is the first of an empty record and a later one of any other. -/
theorem FaultBlock.enter_recoverable (f : FaultBlock) (e : FaultEntry) (h : isFatal e.kind = false) :
    (f.first = none → f.enter e = { f with first := some e }) ∧
    (f.first.isSome = true → f.enter e = { f with later := min 255 (f.later + 1) }) := by
  unfold FaultBlock.enter FaultBlock.effect
  constructor
  · intro h1
    simp [h1]
  · intro h1
    obtain ⟨x, hx⟩ := Option.isSome_iff_exists.mp h1
    simp [hx, h]

/-- R146: a recoverable fault in AUTOMATIC, PARKED and WAKING enters SERVICE. -/
theorem Part.raiseFault_recoverable (p : Part) (k : FaultKind) (loc : Location) (job : Option Nat) (hk : isFatal k = false)
    (hm : p.ctl.mode = .automatic ∨ p.ctl.mode = .parked ∨ p.ctl.mode = .waking) :
    p.raiseFault k loc job =
      (p.recordFault { kind := k, location := loc, job := job, mode := p.ctl.mode }).enterService .fault (some k) := by
  unfold Part.raiseFault
  simp only [hk]
  rcases hm with hm | hm | hm <;> simp [hm]

/-- R146: a recoverable fault in SERVICE abandons a resume and changes no mode. -/
theorem Part.raiseFault_service (p : Part) (k : FaultKind) (loc : Location) (job : Option Nat) (hk : isFatal k = false)
    (hm : p.ctl.mode = .service) :
    p.raiseFault k loc job =
      let q := p.recordFault { kind := k, location := loc, job := job, mode := p.ctl.mode }
      { q with ctl := { q.ctl with resumeFlag := false } } := by
  unfold Part.raiseFault
  simp [hk, hm]

end Sys2Proof.Machine
end

