-- ==== Sys2Proof/Tests/Slice0.lean ====
section
/-! SUPPORT. Tests: the checks of WellFormed, the frames of the manual, its worked numbers, one step of each kind of command, and
for each statement with hypotheses a state and operands that meet them. -/

namespace Sys2Proof.Tests

set_option Elab.async false

open Sys2Proof.Machine

/-! ## Small states -/

/-- A change of the part's blocks. -/
def tweak (s : State) (f : Part → Part) : State := { s with part := f s.part }

/-- AUTOMATIC, everything at rest, the carriage at home with 6000 mm of wire, and a press link with nothing to do. -/
def free : State :=
  { State.reset with
    part := { State.reset.part with
      ctl := { State.reset.part.ctl with mode := .automatic }
      carriage := { State.reset.part.carriage with
        state := .idle, position := .home, target := none, deadline := none, wire := 6000 } }
    link := { State.reset.link with sending := none, outbox := [], seq := 0 } }

/-- The same with a notice in transmission. -/
def busy : State := { free with link := { free.link with sending := some (.notice { seq := 0, notice := .jobHeld 9 }) } }

/-- The part in another mode. -/
def inMode (m : Mode) (s : State) : State := tweak s fun p => { p with ctl := { p.ctl with mode := m } }

/-- A job of 2 copies in bins 1 and 2, for destination 5. -/
def job1 : Job :=
  { number := 1, dest := 5, copies := 2, priority := .normal, pattern := .corner, disorder := .leave, wireRule := .wait
    state := .active, bins := [{ bin := 1, released := false }, { bin := 2, released := false }], closeRequested := false
    tallies := {} }

/-- A run of page 1 of that job, both copies, at 100 µm. -/
def run1 : Run :=
  { id := 0, job := 1, page := 1, stock := 0, caliper := some 100, selected := [1, 2], assigned := 0, deposited := 0
    purged := [], lost := [], unprinted := [], state := .current }

/-- The job's two bins ASSIGNED, and its run in the CURRENT slot. -/
def printing (s : State) : State :=
  tweak s fun p =>
    { ((p.setBin 1 { state := .assigned, set := { job := some 1, copy := some 1 } }).setBin 2
        { state := .assigned, set := { job := some 1, copy := some 2 } }) with
      jobs := { jobs := [job1], queue := [] }
      runs := { current := some run1, pending := none, finishing := [], nextId := 1 } }

/-- A ticket of that run. -/
def ticket1 (t : Target) : Ticket :=
  { ordinal := 1, ref := some { run := 0, job := 1, page := 1, copy := 1 }, target := t, caliper := 100, deadline := 1500 }

/-- A trip of bin 1's set to drawer 3, the set out of its bin. -/
def trip1 : Trip :=
  { bin := 1, job := some 1, copy := some 1, dest := some 5, void := false, sheets := 2, stack := 200, stitches := 1
    made := 1, reason := none, h := 8, place := .drawer 3, header := none, emptied := true, proving := false
    deadline := some 5000 }

/-- The conveyor CARRYING a trip. -/
def carrying (t : Trip) (s : State) : State :=
  tweak s fun p => { p with conv := { p.conv with state := .carrying, trip := some t } }

/-- The carriage in a state, holding bin 1's set, driven to bin 1. -/
def carriageAt (c : CarriageState) (s : State) : State :=
  tweak s fun p => { p with carriage := { p.carriage with
    state := c, held := some { bin := 1, cond := .taken }, target := some (.bin 1), deadline := some 3000 } }

/-- Carriage and conveyor both at work. -/
def working (s : State) : State := carrying trip1 (carriageAt .stitching s)

/-- The state a command gives, or the state before where it gives none. -/
def run (c : Instr) (s : State) : State :=
  match exec c s with
  | .next t => t
  | .fault _ => s
  | .refused _ => s

/-- The result of the answer in transmission. -/
def answered (s : State) : Option Result :=
  match s.link.sending with
  | some (.answer a) => some a.result
  | _ => none

/-- A drawer OPEN for a destination. -/
def openFor (dest : Nat) (locked : Bool) (count stack : Nat) : Drawer :=
  { dest := some dest, state := .open, locked := locked, pile := some { count := count, stack := stack }, awaited := false }

/-- Drawers 11 and 12, the row of destination 5, empty and OPEN for destinations 13 and 21; the marker names way 1. -/
def bothWays : DrawerMap := (free.part.drawers.setDrawer 11 (openFor 13 false 0 0)).setDrawer 12 (openFor 21 false 0 0)

/-! ## WellFormed: what no sender can send -/

theorem test_wf_empty_burst : (Instr.frameReceived [] Lines.atRest.occ).wf = false := by decide
theorem test_wf_empty_body : (Instr.unknownKind []).wf = false := by decide
theorem test_wf_known_kind : (Instr.unknownKind [0x01, 0]).wf = false := by decide
theorem test_wf_long_body : (Instr.unknownKind (0x14 :: List.replicate 250 0)).wf = false := by decide +kernel
theorem test_wf_long_fields : (Instr.identify 0 (List.replicate 249 0)).wf = false := by decide +kernel
theorem test_wf_bin_0 : (Instr.deposit 0).wf = false := by decide
theorem test_wf_bin_49 : (Instr.binEmptied 49).wf = false := by decide
theorem test_wf_carriage_49 : (Instr.carriageAt 49 Lines.atRest.occ).wf = false := by decide
theorem test_wf_drawer_21 : (Instr.collected 21).wf = false := by decide
theorem test_wf_place_0 : (Instr.arrival (.drawer 0)).wf = false := by decide
theorem test_wf_good : (Instr.unknownKind [0x14, 0]).wf = true ∧ (Instr.deposit 48).wf = true := by decide

/-! ## Frames (11 section 11.5, the worked frame) -/

theorem test_frame_identify : frameOf [0x01, 0x10] = [0xA5, 0x02, 0x01, 0x10, 0xB3] := by decide +kernel
theorem test_body_jobOpen :
    decodeBody [0x04, 7, 1, 0, 5, 0, 2, 0, 1, 0, 0] Lines.atRest.occ = .jobOpen 7 [1, 0, 5, 0, 2, 0, 1, 0, 0] := by decide
theorem test_body_unknown : decodeBody [0x14, 7] Lines.atRest.occ = .unknownKind [0x14, 7] := by decide
theorem test_no_table_word : decodeTableWord 8 1 = none := by decide

/-! ## Worked numbers of the manual (05, 06) -/

theorem test_leg_of_2400 : legLength 2400 = 10 := by decide
theorem test_clinch_edges : clinchClass 1000 = 1 ∧ clinchClass 1001 = 2 ∧ clinchClass 4001 = 4 := by decide

/-! ## One step of each kind of command -/

theorem test_power_on : run (.powerOn Lines.atRest) busy = State.reset := by decide +kernel
theorem test_power_on_orphan :
    ((run (.powerOn { Lines.atRest with occ := { Lines.atRest.occ with bins := 4 } }) free).part.bin 3).state = .orphan := by
  decide +kernel
theorem test_frame_received : answered (run (.frameReceived [0xA5, 0x02, 0x01, 0x10, 0xB3] Lines.atRest.occ) free) = some .ok := by
  decide +kernel
theorem test_frame_bad_check : (run (.frameReceived [0xA5, 0x02, 0x01, 0x10, 0xB4] Lines.atRest.occ) busy).link.noise = 1 := by
  decide +kernel
theorem test_frame_timeout : (run .frameTimeout { busy with link := { busy.link with rx := .length } }).link.noise = 1 := by
  decide +kernel
theorem test_frame_sent : (run (.frameSent Lines.atRest.occ) busy).link.sending = none := by decide +kernel
theorem test_unknown_kind : answered (run (.unknownKind [0x14, 7]) free) = some .unknownKind := by decide +kernel
theorem test_single_byte : answered (run (.unknownKind [0x01]) free) = some .badLength := by decide +kernel
theorem test_identify_halted : answered (run (.identify 7 []) (inMode .halted free)) = some .ok := by decide +kernel
theorem test_query_bin_49 : answered (run (.stateQuery 7 [2, 49, 0]) free) = some .badField := by decide +kernel
theorem test_idle_time_low : (run (.optionSet 7 [0, 1, 0]) free).part.ctl.idleTime = 30 := by decide +kernel
theorem test_job_open_grant :
    (run (.jobOpen 7 [1, 0, 5, 0, 2, 0, 1, 0, 0]) free).link.outbox.map Numbered.notice = [.jobReady 1 2 [1, 2]] := by
  decide +kernel
theorem test_job_open_49_copies : answered (run (.jobOpen 7 [1, 0, 5, 0, 49, 0, 1, 0, 0]) free) = some .badField := by
  decide +kernel
theorem test_job_close_deferred : answered (run (.jobClose 7 [1, 0]) (printing free)) = some .okDeferred := by decide +kernel
theorem test_job_hold : (run (.jobHold 7 [1, 0]) (printing free)).part.jobs.jobs.map Job.state = [.holding] := by
  decide +kernel
theorem test_job_release_active : answered (run (.jobRelease 7 [1, 0]) (printing free)) = some .ok := by decide +kernel
theorem test_job_cancel_drains : (run (.jobCancel 7 [1, 0]) (printing free)).part.runs.current.map Run.state = some .draining := by
  decide +kernel
theorem test_run_post_pending : (run (.runPost 7 [1, 0, 2, 0, 0, 0]) (printing free)).part.runs.pending.map Run.total = some 2 := by
  decide +kernel
theorem test_run_withdraw : (run (.runWithdraw 7 [0]) (printing free)).part.runs.current = none := by decide +kernel
theorem test_stock_clamped : ((run (.stockSet 7 [3, 0xF4, 0x01]) free).part.stockAt 3).caliper = 400 := by decide +kernel
theorem test_wire_low : (run (.wireLoad 7 [0x87, 0x13, 0, 0]) free).part.faults.attention = 1 := by decide +kernel
theorem test_lock : ((run (.drawerLock 7 [17, 5, 0]) free).part.drawers.nvOf 17) = { dest := some 5, locked := true } := by
  decide +kernel
theorem test_unlock_dynamic : answered (run (.drawerUnlock 7 [16]) free) = some .notFlexible := by decide +kernel
theorem test_attn_clear :
    (run (.attnClear 7 [1, 5]) (tweak free fun p => { p with faults := { p.faults with attention := 0x21 } })).part.faults.attention
      = 1 := by decide +kernel
theorem test_fault_clear : answered (run (.faultClear 7 []) free) = some .ok := by decide +kernel
theorem test_resume_homes : (run (.resume 7 [] Lines.atRest.occ) (inMode .service free)).part.carriage.state = .homing := by
  decide +kernel
theorem test_park : (run (.park 7 []) free).part.ctl.mode = .parked := by decide +kernel
theorem test_restart_waits : (run (.restart 7 []) free).part = free.part := by decide +kernel
theorem test_restart_begins : (run (.frameSent Lines.atRest.occ) (run (.restart 7 []) free)).part.ctl.mode = .starting := by
  decide +kernel
theorem test_entry_ticket : (run .entry (printing busy)).part.path.tickets.map Ticket.target = [.bin 1] := by decide +kernel
theorem test_deposit : ((run (.deposit 1) (run .entry (printing busy))).part.bin 1).set.pages = [1] := by decide +kernel
theorem test_deposit_mismatch : (run (.deposit 2) (run .entry (printing busy))).part.ctl.mode = .service := by decide +kernel
theorem test_purge_stray : (run .purgeArrival (run .entry busy)).part.path.account.purged = 1 := by decide +kernel
theorem test_purge_full_off :
    (run .purgeFullOff (tweak busy fun p => { p with path := { p.path with purgeCount := 9 } })).part.path.purgeCount = 0 := by
  decide +kernel
theorem test_ticket_jam : (run .ticketDeadline (run .entry (printing busy))).part.path.account.lost = 1 := by decide +kernel
theorem test_bin_emptied :
    ((run (.binEmptied 1) (carrying { trip1 with emptied := false } (printing busy))).part.bin 1).state = .free := by
  decide +kernel
theorem test_carriage_lost : (run (.carriageAt 2 Lines.atRest.occ) (carriageAt .travelling busy)).part.ctl.mode = .halted := by
  decide +kernel
theorem test_travel_expires :
    (run (.travelDeadline Lines.atRest.occ) (carriageAt .travelling busy)).part.faults.first.map FaultEntry.location
      = some (.bin 1) := by decide +kernel
theorem test_stitch_ignored : run .stitchDone busy = busy := by decide +kernel
theorem test_stitch_jam : (run .stitchCycleDeadline (carriageAt .stitching busy)).part.ctl.mode = .service := by decide +kernel
theorem test_started : (run (.carriageHome Lines.atRest.occ) State.reset).part.ctl.mode = .automatic := by decide +kernel
theorem test_homing_expires : (run (.homingDeadline Lines.atRest.occ) State.reset).part.ctl.mode = .halted := by
  decide +kernel
theorem test_slip_fed :
    (run .slipFed (tweak busy fun p => { p with conv := { p.conv with state := .slip, trip := some trip1 } })).part.conv.tray.stack
      = 150 := by decide +kernel
theorem test_slip_deadline :
    (run .slipFeedDeadline
      (tweak busy fun p => { p with conv := { p.conv with state := .slip, trip := some trip1 } })).part.faults.attention = 8 := by
  decide +kernel
theorem test_slip_low : (run (.slipLow true) busy).part.faults.attention = 4 := by decide +kernel
theorem test_slip_out : (run (.slipOut true) busy).part.conv.slipOut = true := by decide +kernel
theorem test_arrival : ((run (.arrival (.drawer 3)) (carrying trip1 busy)).part.drawers.drawer 3).pile
    = some { count := 1, stack := 200 } := by decide +kernel
theorem test_arrival_elsewhere : (run (.arrival (.drawer 4)) (carrying trip1 busy)).part.ctl.mode = .service := by
  decide +kernel
theorem test_carry_stall : (run .carryDeadline (carrying trip1 busy)).part.faults.first.map FaultEntry.kind
    = some .conveyorStall := by decide +kernel
theorem test_tray_cleared :
    (run .overflowEmptied (tweak busy fun p => { p with conv := { p.conv with tray := { p.conv.tray with sets := 4 } } })).part.conv.tray.sets
      = 0 := by decide +kernel
theorem test_collected :
    ((run (.collected 4) (tweak busy fun p => { p with
        drawers := p.drawers.setDrawer 4 { dest := some 9, state := .full, locked := false, pile := none, awaited := false } })).part.drawers.drawer
      4).state = .open := by decide +kernel
theorem test_transport_ready : (run .transportReady (inMode .waking busy)).part.ctl.mode = .automatic := by decide +kernel
theorem test_waking_slow :
    (run .wakingDeadline (tweak (inMode .waking busy) fun p => { p with ctl := { p.ctl with wakingDeadline := some 9 } })).part.now
      = 9 := by decide +kernel
theorem test_idle_timer :
    (run .idleTimerExpiry (tweak busy fun p => { p with ctl := { p.ctl with idleTimer := some 9 } })).part.ctl.mode = .parked := by
  decide +kernel
theorem test_door_opened : (run .doorOpened busy).part.ctl.mode = .service := by decide +kernel
theorem test_door_closed :
    (run .doorClosed (tweak busy fun p => { p with ctl := { p.ctl with doorCycle := .opened } })).part.ctl.doorCycle = .none := by
  decide +kernel
theorem test_key_on : (run .keyOn busy).link.outbox.map Numbered.notice
    = [.modeNow .service (some .automatic) .key none false true] := by decide +kernel
theorem test_key_off : (run .keyOff (run .keyOn busy)).part.ctl.keyOn = false := by decide +kernel

/-- R96, R151: the power-on wire of 0 mm is below 5000 mm in STARTING too. -/
theorem test_wire_low_in_starting : State.reset.part.ctl.mode = .starting ∧ State.reset.part.levels.wireLow = true := by decide +kernel
/-- R151: no level changes between STARTING and the HALTED that follows it. -/
theorem test_levels_after_a_halt :
    (run (.homingDeadline Lines.atRest.occ) State.reset).part.ctl.mode = .halted ∧
    (run (.homingDeadline Lines.atRest.occ) State.reset).part.levels = State.reset.part.levels := by decide +kernel
/-- R152: a WIRE_LOW named in STARTING is cleared, its level present; elsewhere it stays. -/
theorem test_attn_clear_by_mode :
    (let s := tweak free fun p => { p with carriage := { p.carriage with wire := 0 }, faults := { p.faults with attention := 1 } }
     (run (.attnClear 7 [1, 0]) (inMode .starting s)).part.faults.attention = 0 ∧
     (run (.attnClear 7 [1, 0]) s).part.faults.attention = 1) := by decide +kernel
/-- R120, R121: where both ways of the row are empty and OPEN for other destinations, the way the marker does not name. -/
theorem test_the_less_recent_way_is_taken :
    (bothWays.resolve 5 100).place = .drawer 12 := by decide +kernel

/-! ## States that meet the hypotheses of the statements -/

theorem free_tweak (f : Part → Part) (h : (f free.part).out = { reset := false, notices := [] }) : Free (tweak free f) :=
  ⟨h, rfl, rfl, rfl⟩

theorem busy_tweak (k : Nat) (f : Part → Part) (hk : k ≤ 32) (h : (f busy.part).out = { reset := false, notices := [] }) :
    Busy k (tweak busy f) :=
  ⟨h, rfl, by simpa [tweak, busy, free] using hk⟩

theorem free_inMode (m : Mode) : Free (inMode m free) := free_tweak _ rfl

theorem busy_inMode (k : Nat) (m : Mode) (hk : k ≤ 32) : Busy k (inMode m busy) := busy_tweak k _ hk rfl

theorem free_free : Free free := ⟨rfl, rfl, rfl, rfl⟩

theorem busy_busy (k : Nat) (hk : k ≤ 32) : Busy k busy := ⟨rfl, rfl, by simpa [busy, free] using hk⟩

theorem serving_automatic : Mode.Serving .automatic := ⟨by decide, by decide⟩

theorem atWork_working (s : State) : (working s).part.AtWork :=
  fun _ => ⟨fun h => CarriageState.noConfusion h, fun h => ConvState.noConfusion h⟩

theorem free_printing : Free (printing free) := ⟨rfl, rfl, rfl, rfl⟩

theorem busy_printing (k : Nat) (hk : k ≤ 32) : Busy k (printing busy) :=
  ⟨rfl, rfl, by simpa [printing, tweak, busy, free] using hk⟩

/-- A state with the job of `job1` in another state. -/
def jobIs (st : JobState) (s : State) : State :=
  tweak s fun p => { p with jobs := { p.jobs with jobs := [{ job1 with state := st }] } }

/-- Bin `b` in a state with a set. -/
def binIs (b : Nat) (r : Bin) (s : State) : State := tweak s fun p => p.setBin b r

/-- A set of 2 sheets of job 1, copy 1, with its plan of one stitch made. -/
def set1 : SetRecord :=
  { job := some 1, copy := some 1, pages := [1, 2], stack := 200
    plan := some { stitches := 1, h := 8, clinch := 1, wire := 20, reason := none }, made := 1 }

theorem witness_StepTakesTheFrontCommand :
    ({ free with pending := [.entry] } : State).pending = Instr.entry :: [] := rfl

theorem witness_IdentifyAnswersTheIdentity : Free free := free_free

theorem witness_RequestsByMode :
    Free free ∧ (List.replicate 248 (0 : Byte)).length ≤ 248 ∧ free.part.ctl.mode ∉ acceptingModes .resume ∧
    free.part.ctl.mode ∈ acceptingModes .park := ⟨free_free, by decide +kernel⟩

theorem witness_RequestFramesAreChecked :
    Free free ∧ (0x13 : Nat) < (0x14 : Byte).toNat ∧ free.part.ctl.mode ∈ acceptingModes .jobClose ∧
    ([0] : List Byte).length + 2 ≠ bodyLength .jobClose [0] ∧ ([] : List Byte).length < 6 := ⟨free_free, by decide +kernel⟩

theorem witness_ARefusedRequestChangesNothing :
    Free (inMode .service free) ∧
    exec (requestCommand .park 7 [] Lines.atRest.occ) (inMode .service free) = .next (run (.park 7 []) (inMode .service free)) ∧
    (run (.park 7 []) (inMode .service free)).link.sending
      = some (.answer { kind := 0x12, tag := 7, result := .wrongMode, fields := .empty }) ∧ 16 ≤ resultCode .wrongMode :=
  ⟨free_inMode _, rfl, by decide +kernel⟩

theorem witness_StateQueryShowsTheRecords :
    Free (printing free) ∧ ([1, 1, 0] : List Byte).length = 3 ∧ byteAt [1, 1, 0] 0 = 1 ∧
    (printing free).part.job? (wordAt [1, 1, 0] 1) = some job1 ∧ (printing free).part.job? 2 = none ∧
    ((printing free).part.bin 48).state = .free ∧ ((printing free).part.bin 1).state ≠ .free :=
  ⟨free_printing, by decide +kernel⟩

theorem witness_OptionSetStoresTheOption :
    Free free ∧ free.part.ctl.mode ≠ .halted ∧ ([0, 29, 0] : List Byte).length = 3 ∧ byteAt [0, 29, 0] 0 = 0 ∧
    free.part.idle = true ∧ (printing free).part.idle = false ∧ byteAt [1, 1, 0] 0 = 1 ∧ wordAt [1, 1, 0] 1 ≤ 1 ∧
    wordAt [1, 2, 0] 1 > 1 ∧ wordAt [2, 255, 0] 1 ≤ 255 ∧ wordAt [2, 0, 1] 1 > 255 :=
  ⟨free_free, by decide +kernel⟩

/-- Job 7 as JOB_OPEN creates it. -/
def job7 (pr : Priority) : Job :=
  { number := 7, dest := 4095, copies := 48, priority := pr, pattern := .none, disorder := .leave, wireRule := .wait
    state := .waiting, bins := [], closeRequested := false, tallies := {} }

theorem job7_fresh (pr : Priority) : (job7 pr).Fresh := ⟨⟨by simp [job7], by simp [job7], by simp [job7]⟩, rfl, rfl, rfl, rfl⟩

/-- Jobs 2 (urgent) and 3 (normal) wait for bins. -/
def queue23 (s : State) : State :=
  tweak s fun p => { p with jobs := {
    jobs := [{ job7 .urgent with number := 2 }, { job7 .normal with number := 3 }], queue := [2, 3] } }

theorem witness_JobOpenWaitsOrIsGranted :
    Free (queue23 free) ∧ (queue23 free).part.ctl.mode.Serving ∧ (job7 .urgent).Fresh ∧
    (queue23 free).part.job? 7 = none ∧ (queue23 free).part.jobs.jobs.length < 16 ∧
    (queue23 free).part.jobs.queue = [2] ++ [3] ∧ (queue23 free).part.urgent 2 ∧ ¬ (queue23 free).part.urgent 3 ∧
    free.part.jobs.queue = [] ++ [] ∧ free.part.job? 7 = none ∧ (job7 .normal).copies ≤ free.part.freeBins.length :=
  ⟨free_tweak _ rfl, serving_automatic, job7_fresh _, by decide +kernel, by decide, rfl, by unfold Part.urgent; decide +kernel,
    by unfold Part.urgent; decide +kernel, rfl, by decide +kernel, by decide +kernel⟩

/-- Bin 2 ORPHAN: the FREE bins are 1 and the block 3 to 48. -/
def fragmented (s : State) : State := binIs 2 Bin.orphan s

theorem witness_JobOpenIsGranted :
    Free (fragmented free) ∧ ({ job7 .normal with copies := 46 } : Job).copies ≤ (fragmented free).part.freeBins.length ∧
    ({ job7 .normal with copies := 47 } : Job).copies ≤ (fragmented free).part.freeBins.length ∧
    (fragmented free).part.freeBins.length < (job7 .normal).copies ∧
    (let s := tweak (queue23 (fragmented free)) fun p => { p with jobs := { p.jobs with queue := [3] } }
     s.part.jobs.queue = [] ++ [3] ∧ ¬ s.part.urgent 3 ∧ (s.part.job? 3).map Job.copies = some 48 ∧
     s.part.freeBins.length < 46 + 48) :=
  ⟨⟨rfl, rfl, rfl, rfl⟩, by decide +kernel, by decide +kernel, by decide +kernel, rfl, by unfold Part.urgent; decide +kernel,
    by decide +kernel⟩

theorem witness_JobRequestRefusals :
    Free free ∧ free.part.ctl.mode.Serving ∧ ([1, 0, 0, 16, 1, 0, 0, 0, 0] : List Byte).length = 9 ∧
    4095 < wordAt [1, 0, 0, 16, 1, 0, 0, 0, 0] 2 ∧ ((printing free).part.job? 1).isSome = true ∧
    free.part.job? (wordAt [1, 0] 0) = none ∧
    (tweak free fun p => { p with jobs := { p.jobs with jobs := List.replicate 16 job1 } }).part.job? 9 = none :=
  ⟨free_free, serving_automatic, by decide +kernel⟩

theorem witness_JobCloseWithWorkInHand :
    Free (printing free) ∧ (printing free).part.ctl.mode.Serving ∧ (printing free).part.job? 1 = some job1 ∧
    (∃ r ∈ (printing free).part.runs.current.toList ++ (printing free).part.runs.pending.toList
      ++ (printing free).part.runs.finishing, r.job = job1.number) ∧
    (jobIs .closing free).part.job? 1 = some { job1 with state := .closing } ∧
    (jobIs .waiting free).part.job? 1 = some { job1 with state := .waiting } :=
  ⟨free_printing, serving_automatic, by decide +kernel⟩

/-- Job 1 with its second bin released, bin 1 FILLING with two pages, WIRE_OUT latched, and the mechanism at work. -/
def closing1 (s : State) : State :=
  working (tweak s fun p => { p.setBin 1 { state := .filling, set := { job := some 1, copy := some 1, pages := [1, 2] } } with
    jobs := { jobs := [{ job1 with bins := [{ bin := 1, released := false }, { bin := 2, released := true }] }], queue := [] }
    faults := { p.faults with attention := 2 } })

theorem witness_JobCloseTakesEffect :
    Free (closing1 free) ∧ (closing1 free).part.ctl.mode.Serving ∧ (closing1 free).part.ctl.mode ≠ .parked ∧
    (closing1 free).part.AtWork ∧
    ((closing1 free).part.job? 1).map (fun j => (j.state, j.heldBins)) = some (JobState.active, [1]) ∧
    (∀ r ∈ (closing1 free).part.runs.current.toList ++ (closing1 free).part.runs.pending.toList
      ++ (closing1 free).part.runs.finishing, r.job ≠ 1) ∧
    ((closing1 free).part.bin 1).set.pages ≠ [] ∧
    hasCondition (closing1 free).part.faults.attention .wireOut = true :=
  ⟨⟨rfl, rfl, rfl, rfl⟩, serving_automatic, by decide, atWork_working _, by decide +kernel, by decide +kernel,
    by decide +kernel, by decide⟩

/-- Bin `b` STITCH_WAIT at the tail of the stitch queue with a set of job `n`, two stitches planned and `made` of them made. -/
def waitsFor (b n made : Nat) (s : State) : State :=
  tweak (binIs b { state := .stitchWait, set := { set1 with
      job := some n, made := made, plan := some { stitches := 2, h := 8, clinch := 1, wire := 40, reason := none } } } s) fun p =>
    { p with carriage := { p.carriage with queue := p.carriage.queue ++ [b] } }

/-- Job 1 in its class, and job 2, NORMAL and UNSTITCHED where wire runs short. -/
def jobs12 (pr : Priority) (s : State) : State :=
  tweak s fun p => { p with jobs := {
    jobs := (p.jobs.jobs.map fun j => { j with priority := pr }) ++ [{ job1 with number := 2, wireRule := .unstitched }]
    queue := [] } }

theorem witness_JobCloseQueuesByClass :
    (let s := jobs12 .urgent (closing1 (waitsFor 4 2 0 (waitsFor 3 1 0 free)))
     s.part.carriage.queue = [3] ++ [4] ∧ (s.part.bin 1).set.job = some 1 ∧ s.part.priorityOf 3 = .urgent ∧
     s.part.priorityOf 4 = .normal ∧ (s.part.job? 1).map Job.heldBins = some [1] ∧
     (run (.jobClose 7 [1, 0]) s).part.carriage.queue = [3, 1, 4]) ∧
    (let s := jobs12 .normal (closing1 (waitsFor 4 2 0 (waitsFor 3 1 0 free)))
     s.part.carriage.queue = [] ++ [3, 4] ∧ s.part.priorityOf 3 = .normal ∧
     (run (.jobClose 7 [1, 0]) s).part.carriage.queue = [3, 4, 1]) := by decide +kernel

theorem witness_JobHoldAndReleaseByState :
    Free (printing free) ∧ (printing free).link.outbox.length < 32 ∧ (printing free).part.ctl.mode.Serving ∧
    (printing free).part.job? 1 = some job1 ∧ (∃ r ∈ (printing free).part.runs.current, r.job = job1.number) ∧
    (jobIs .active free).part.job? 1 = some job1 ∧ (∀ r ∈ (jobIs .active free).part.runs.current, r.job ≠ job1.number) ∧
    (jobIs .held free).part.job? 1 = some { job1 with state := .held } ∧
    (jobIs .waiting free).part.job? 1 = some { job1 with state := .waiting } :=
  ⟨free_printing, by decide, serving_automatic, by decide +kernel⟩

theorem witness_JobCancelByState :
    Free (working (queue23 free)) ∧ (working (queue23 free)).part.ctl.mode.Serving ∧ (working (queue23 free)).part.AtWork ∧
    (working (queue23 free)).part.job? 3 = some { job7 .normal with number := 3 } ∧
    (working (queue23 free)).part.jobs.queue.head? ≠ some 3 ∧
    (let s := working (binIs 2 { state := .ejectWait, set := set1 } (binIs 1 { state := .stitching, set := set1 }
      (jobIs .finishing free)))
     s.part.job? 1 = some { job1 with state := .finishing } ∧
     (∃ e ∈ ({ job1 with state := .finishing } : Job).bins, e.released = false) ∧
     ∀ b ∈ ({ job1 with state := .finishing } : Job).heldBins,
       (s.part.bin b).state ∈ [BinState.stitching, .ejectWait, .ejecting]) ∧
    (jobIs .cancelling free).part.job? 1 = some { job1 with state := .cancelling } :=
  ⟨⟨rfl, rfl, rfl, rfl⟩, serving_automatic, atWork_working _, by decide +kernel⟩

/-- Job 1 with 6 copies in bins 1 to 6. -/
def job6 : Job := { job1 with copies := 6, bins := (List.range' 1 6).map fun b => { bin := b, released := false } }

/-- Its bins 1 and 2 ASSIGNED, 3 and 4 FILLING, 5 STITCH_WAIT, 6 STITCHING, with a sheet on its way to bins 2 and 4. -/
def cancelling6 (s : State) : State :=
  let set (k : Nat) (pages : List Nat) (inbound : Nat) : SetRecord :=
    { job := some 1, copy := some k, pages := pages, inboundSheets := inbound, inboundMicrons := 100 * inbound }
  working (tweak (binIs 1 { state := .assigned, set := set 1 [] 0 } (binIs 2 { state := .assigned, set := set 2 [] 1 }
      (binIs 3 { state := .filling, set := set 3 [1] 0 } (binIs 4 { state := .filling, set := set 4 [1] 1 }
        (binIs 5 { state := .stitchWait, set := { set1 with copy := some 5 } }
          (binIs 6 { state := .stitching, set := { set1 with copy := some 6 } } s)))))) fun p =>
    { p with jobs := { jobs := [job6], queue := [] }, carriage := { p.carriage with queue := [9, 5, 8] } })

/-- Job 1's two bins ASSIGNED and empty, no run of it, and a trip of another set. -/
def ending2 (s : State) : State :=
  carrying { trip1 with job := none } (tweak (carriageAt .stitching (printing s)) fun p =>
    { p with runs := { p.runs with current := none } })

theorem witness_JobCancelVoidsTheBins :
    (Free (cancelling6 free) ∧ (cancelling6 free).part.job? 1 = some job6 ∧ (cancelling6 free).part.jobs.queue = [] ∧
     (∀ b ∈ job6.heldBins, ((cancelling6 free).part.bin b).set.job = some job6.number) ∧
     (∃ e ∈ job6.bins, e.released = false ∧ e.bin ≠ 1)) ∧
    (Free (ending2 free) ∧ (ending2 free).part.job? 1 = some job1 ∧
     (∀ b ∈ job1.heldBins, ((ending2 free).part.bin b).set.job = some 1 ∧ ((ending2 free).part.bin b).state = .assigned ∧
       ((ending2 free).part.bin b).set.inboundSheets = 0) ∧
     (ending2 free).part.runs.current = none ∧ (ending2 free).part.runs.finishing = [] ∧
     (∀ c ∈ (ending2 free).part.conv.trip, c.job ≠ some 1)) :=
  ⟨⟨⟨rfl, rfl, rfl, rfl⟩, by decide +kernel⟩, ⟨rfl, rfl, rfl, rfl⟩, by decide +kernel⟩

/-- RUN_POST for job 1, page 60, all copies. -/
def post1 : RunPostFields := { job := 1, page := 60, stock := 0, form := 0, count := 0, copies := [] }

theorem post1_inRange : post1.InRange :=
  ⟨by simp [post1], by simp [post1], by simp [post1], rfl, .inl ⟨rfl, rfl⟩, by simp [post1]⟩

theorem witness_RunPostRefusals :
    Free (printing free) ∧ (printing free).part.ctl.mode ∈ [Mode.automatic, .parked, .waking] ∧
    ¬ ({ post1 with page := 61 } : RunPostFields).InRange ∧ post1.InRange ∧ free.part.job? post1.job = none ∧
    (printing free).part.job? post1.job = some job1 ∧
    (∃ k ∈ ({ post1 with form := 1, count := 1, copies := [48] } : RunPostFields).copies, job1.copies < k) ∧
    (∀ k ∈ post1.copies, k ≤ job1.copies) ∧ (free.part.stockAt 7).defined = false ∧ (free.part.stockAt 0).defined = true ∧
    (tweak (printing free) fun p => { p with runs := { p.runs with pending := some run1 } }).part.runs.pending.isSome = true :=
  ⟨free_printing, by decide, fun h => absurd h.page.2 (by decide), post1_inRange, by decide +kernel⟩

theorem witness_RunPostEntersASlot :
    Free (printing free) ∧ (printing free).link.outbox.length < 32 ∧ post1.InRange ∧
    (printing free).part.job? post1.job = some job1 ∧ job1.state = .active ∧ (∀ k ∈ post1.copies, k ≤ job1.copies) ∧
    ((printing free).part.stockAt post1.stock).defined = true ∧ (printing free).part.runs.current.isSome = true ∧
    (printing free).part.runs.pending = none ∧ (jobIs .active free).part.ctl.mode = .automatic ∧
    (jobIs .active free).part.runs.current = none ∧ (jobIs .active free).part.job? post1.job = some job1 ∧
    (inMode .parked (jobIs .active free)).part.ctl.mode = .parked ∧
    (inMode .waking (jobIs .active free)).part.ctl.mode = .waking :=
  ⟨free_printing, by decide, post1_inRange, by decide +kernel⟩

/-- A PENDING run of job 1 behind the CURRENT run. -/
def pending2 (s : State) : State :=
  tweak (printing s) fun p => { p with runs := { p.runs with pending := some { run1 with id := 1, state := .pending } } }

/-- The CURRENT run with a ticket in flight. -/
def ticketed (s : State) : State :=
  tweak (printing s) fun p => { p with path := { p.path with tickets := [ticket1 (.bin 1)] } }

theorem witness_RunWithdrawBySlot :
    Free (pending2 free) ∧ (pending2 free).link.outbox.length < 32 ∧ (pending2 free).part.ctl.mode.Serving ∧
    (∃ r ∈ (pending2 free).part.runs.pending, r.id = 1) ∧ (pending2 free).part.runs.current.map Run.id ≠ some 1 ∧
    (pending2 free).part.job? 1 = some job1 ∧
    (∃ r ∈ (ticketed free).part.runs.current, r.id = 0) ∧ (ticketed free).part.runs.pending = none ∧
    (∃ t ∈ (ticketed free).part.path.tickets, t.ref.map RunRef.run = some (0 : RunId)) ∧
    (∀ t ∈ (working (printing free)).part.path.tickets, t.ref.map RunRef.run ≠ some (0 : RunId)) ∧
    (working (printing free)).part.AtWork ∧ free.part.runs.current.map Run.id ≠ some (255 : RunId) ∧
    free.part.runs.pending.map Run.id ≠ some (255 : RunId) ∧ (∀ r ∈ free.part.runs.finishing, r.id ≠ 255) ∧
    (∃ r ∈ (tweak free fun p => { p with runs := { p.runs with finishing := [{ run1 with state := .finishing }] } }).part.runs.finishing,
      r.id = 0) :=
  ⟨⟨rfl, rfl, rfl, rfl⟩, by decide, serving_automatic, by decide +kernel, by decide +kernel, by decide +kernel,
    by decide +kernel, by decide +kernel, by decide +kernel, by decide +kernel, atWork_working _, by decide +kernel⟩

theorem witness_StockSetDefinesTheEntry :
    Free free ∧ free.part.ctl.mode.Serving ∧ ([7, 49, 0] : List Byte).length = 3 ∧ byteAt [7, 49, 0] 0 ≤ 7 ∧
    7 < byteAt [8, 49, 0] 0 ∧ ([7] : List Byte).length ≠ 3 ∧ (inMode .halted free).part.ctl.mode = .halted :=
  ⟨free_free, serving_automatic, by decide +kernel⟩

theorem witness_WireLoadStoresTheLength :
    Free (working free) ∧ (working free).link.outbox.length < 32 ∧ (working free).part.ctl.mode ≠ .halted ∧
    (working free).part.carriage.queue = [] ∧ (working free).part.AtWork ∧
    longAt [0x88, 0x13, 0, 0] 0 = 5000 ∧ longAt [0x87, 0x13, 0, 0] 0 = 4999 ∧
    hasCondition (working free).part.faults.attention .wireLow = false ∧
    hasCondition (working free).part.faults.reportMask .wireLow = true :=
  ⟨⟨rfl, rfl, rfl, rfl⟩, by decide, by decide, rfl, atWork_working _, by decide +kernel⟩

/-- A drawer OPEN for destination 5. -/
def openFor5 : Bool → Nat → Nat → Drawer := openFor 5

/-- Flexible drawer 17 locked to destination 5. -/
def locked17 (s : State) : State :=
  tweak s fun p => { p with drawers := p.drawers.setDrawer 17 (openFor5 true 0 0) }

theorem witness_DrawerLockGivesTheDrawer :
    Free (working free) ∧ (working free).link.outbox.length < 32 ∧ (working free).part.ctl.mode.Serving ∧
    ((locked17 free).part.drawers.drawer 17).locked = true ∧ ((locked17 free).part.drawers.drawer 17).dest = some 5 ∧
    (¬ ∃ d, 17 ≤ d ∧ d ≤ 20 ∧ d ≠ 17 ∧ ((locked17 free).part.drawers.drawer d).locked = true ∧
      ((locked17 free).part.drawers.drawer d).dest = some 5) ∧
    ((working free).part.drawers.drawer 20).locked = false ∧ ((working free).part.drawers.drawer 20).dest ≠ some 4095 ∧
    ((working free).part.drawers.drawer 20).awaited = false ∧
    ((working free).part.drawers.drawer 20).pile = some { count := 0, stack := 0 } ∧ (working free).part.AtWork ∧
    (∀ d < 21, 1 ≤ d → ((working free).part.drawers.drawer d).state = .open →
      ((working free).part.drawers.drawer d).dest ≠ some 4095) :=
  ⟨⟨rfl, rfl, rfl, rfl⟩, by decide, serving_automatic, by decide +kernel, by decide +kernel,
    fun ⟨d, h1, h2, h3, h4, _⟩ => by
      obtain rfl | rfl | rfl : d = 18 ∨ d = 19 ∨ d = 20 := by omega
      all_goals exact absurd h4 (by decide +kernel),
    by decide +kernel, by decide +kernel, by decide +kernel, by decide +kernel, atWork_working _, by decide +kernel⟩

theorem witness_DrawerUnlockClearsTheLock :
    Free (working (locked17 free)) ∧ (working (locked17 free)).link.outbox.length < 32 ∧
    (working (locked17 free)).part.ctl.mode.Serving ∧ (17 : Byte).toNat = 17 ∧
    ((working (locked17 free)).part.drawers.drawer 17).locked = true ∧ (working (locked17 free)).part.AtWork ∧
    ((working free).part.drawers.drawer 20).locked = false :=
  ⟨⟨rfl, rfl, rfl, rfl⟩, by decide, serving_automatic, by decide, by decide +kernel, atWork_working _, by decide +kernel⟩

theorem witness_AttnClearKeepsPresentLevels :
    Free free ∧ free.part.ctl.mode ≠ .halted ∧ (List.replicate 8 (7 : Byte)).length = 8 ∧
    (∀ c ∈ List.replicate 8 (7 : Byte), c.toNat ≤ 7) ∧ (∃ c ∈ ([8] : List Byte), 7 < c.toNat) :=
  ⟨free_free, by decide +kernel⟩

theorem witness_FaultClearEmptiesTheRecord : Free (inMode .halted free) := free_inMode _

theorem witness_ResumeStartsHoming :
    Free (inMode .service free) ∧ (inMode .service free).part.ctl.mode = .service ∧
    (inMode .service free).part.ctl.resumeFlag = false ∧ (inMode .service free).part.ctl.doorCycle = .none ∧
    (inMode .service free).part.SensorsAgree Lines.atRest.occ ∧ (inMode .service free).part.conv.trip = none ∧
    (inMode .service free).part.carriage.held = none := by
  refine ⟨free_inMode _, rfl, rfl, rfl, ?_, rfl, rfl⟩
  have h : ∀ b < 49, 1 ≤ b → ((inMode .service free).part.bin b).state = .free := by decide +kernel
  intro b hb
  rw [h b (by omega) hb.1]
  refine ⟨fun _ => ?_, fun h => absurd h (by decide)⟩
  simp [Lines.atRest]

/-- A part stopped in SERVICE, with a trip and a held set. -/
def stoppedWith (t : Option Trip) (h : Option Held) (s : State) : State :=
  inMode .service (tweak s fun p => { p with
    conv := { p.conv with state := .stopped, trip := t }
    carriage := { p.carriage with state := .stopped, position := .unknown, held := h } })

/-- The occupancy sensors with paper in some bins. -/
def occOf (l : BitVec 48) : Occupancy := { Lines.atRest.occ with bins := l }

/-- The sets of bins 1 (void), 2 and 3 and the paper of bin 4 and 5 taken out; a sheet added to bins 6 and 7. -/
def audited (s : State) : State :=
  let set (k : Nat) : SetRecord := { set1 with copy := some k }
  stoppedWith none (some { bin := 3, cond := .interrupted }) (tweak (binIs 1 { state := .ejectWait, set := { set 1 with void := true } }
      (binIs 2 { state := .stitchWait, set := set 2 } (binIs 3 { state := .stitching, set := set 3 } (binIs 4 Bin.orphan
        (binIs 5 { state := .filling, set := { set 4 with plan := none } }
          (binIs 6 { state := .assigned, set := { job := some 1, copy := some 5 } } s)))))) fun p =>
    { p with
      jobs := { jobs := [{ job6 with bins := [1, 2, 3, 5, 6].map fun b => { bin := b, released := false } }], queue := [] }
      carriage := { p.carriage with queue := [2] }
      conv := { p.conv with queue := [{ bin := 1, placeable := some false }, { bin := 4, placeable := none }] } })

/-- Two bits of the sensors settle whether they agree with the records of bins 1 to 48. -/
theorem sensorsAgree_of {p : Part} {occ : Occupancy}
    (h : ∀ b < 49, 1 ≤ b → ((p.bin b).state ∈ [BinState.free, .assigned] → occ.bins.getLsbD (b - 1) = false) ∧
      ((p.bin b).state ∈ [BinState.filling, .stitchWait, .stitching, .ejectWait, .orphan] → occ.bins.getLsbD (b - 1) = true)) :
    p.SensorsAgree occ := fun b hb => h b (by omega) hb.1

/-- A trip of bin 1's set to the overflow tray, its slip still to feed. -/
def slip1 : Trip := { trip1 with place := .overflow, header := some .pending, emptied := false, deadline := none }

/-- Bin 1 EJECTING on a trip kept in SERVICE. -/
def tripKept (t : Trip) (s : State) : State :=
  stoppedWith (some t) none (binIs 1 { state := .ejecting, set := set1 } (printing s))

/-- Bin 1's set held at the carriage in SERVICE, bin 2's waiting, WIRE_OUT latched. -/
def heldKept (c : CarriageState) (cond : HeldCond) (s : State) : State :=
  tweak (stoppedWith none (some { bin := 1, cond := cond }) (binIs 1 { state := .stitching, set := set1 }
      (binIs 2 { state := .stitchWait, set := set1 } (jobIs .active s)))) fun p =>
    { p with carriage := { p.carriage with state := c, queue := [2] }, faults := { p.faults with attention := 2 } }

theorem witness_ResumeAudits :
    Free (audited free) ∧ (audited free).part.ctl.mode = .service ∧ (audited free).part.conv.trip = none ∧
    (let p := (audited free).part
     let occ := occOf (BitVec.ofNat 48 0x60)
     (∀ h ∈ p.carriage.held, h.bin ∈ p.setsGone occ) ∧ p.jobs.queue = [] ∧ (∀ j ∈ p.jobs.jobs, j.state = .active) ∧
     p.setsGone occ = [1, 2, 3] ∧ p.orphansGone occ = [4] ∧ p.sensedBins occ [.filling] false = [5] ∧
     p.sensedBins occ [.assigned] true = [6] ∧ p.sensedBins occ [.free] true = [7]) :=
  ⟨⟨rfl, rfl, rfl, rfl⟩, by decide +kernel⟩

theorem witness_ResumeChecksATrip :
    Free (tripKept slip1 free) ∧ (tripKept slip1 free).part.SensorsAgree (occOf 1) ∧
    (tripKept slip1 free).part.SensorsAgree (occOf 0) ∧ (tripKept slip1 free).part.carriage.held = none ∧
    (tripKept slip1 free).part.conv.trip = some slip1 ∧ slip1.job = ((tripKept slip1 free).part.bin 1).set.job ∧
    (occOf 1).bins.getLsbD 0 = true ∧ (occOf 0).bins.getLsbD 0 = false ∧ (tripKept slip1 free).part.job? 1 = some job1 ∧
    job1.state = .active ∧ (tripKept slip1 free).part.conv.tray.groups = [] ∧ (tripKept slip1 free).part.conv.slipOut = false ∧
    (tripKept { slip1 with header := some .joins } free).part.conv.trip = some { slip1 with header := some .joins } ∧
    (tripKept trip1 free).part.conv.trip.map Trip.emptied = some true :=
  ⟨⟨rfl, rfl, rfl, rfl⟩, sensorsAgree_of (by decide +kernel), sensorsAgree_of (by decide +kernel), by decide +kernel⟩

theorem witness_ResumeSettlesAHeldSet :
    Free (heldKept .stopped .jammed free) ∧ (heldKept .stopped .jammed free).part.SensorsAgree (occOf 3) ∧
    (heldKept .stitching .taken free).part.SensorsAgree (occOf 3) ∧ (heldKept .stitching .taken free).part.conv.trip = none ∧
    (heldKept .stitching .taken free).part.carriage.held = some { bin := 1, cond := .taken } ∧
    hasCondition (heldKept .stopped .jammed free).part.faults.attention .wireOut = true ∧
    (heldKept .stitching .taken free).part.carriage.queue = [] ++ [2] ∧
    (heldKept .stitching .taken free).part.priorityOf 2 = .normal :=
  ⟨⟨rfl, rfl, rfl, rfl⟩, sensorsAgree_of (by decide +kernel), sensorsAgree_of (by decide +kernel), by decide +kernel⟩

theorem witness_ParkAndRestart :
    Free free ∧ free.link.outbox.length < 32 ∧ free.part.ctl.mode = .automatic ∧ free.part.IdleCond ∧
    (printing free).part.idle = false :=
  ⟨free_free, by decide, rfl, ⟨rfl, rfl, rfl, rfl, rfl, rfl, rfl, rfl⟩, by decide⟩

/-! ### The press link and the starts -/

theorem witness_ARequestFrameRunsItsRequest :
    free.link.rx = .idle ∧ 1 ≤ ([0x01, 7] : List Byte).length ∧ (List.replicate 250 (0 : Byte)).length ≤ 250 ∧ Free free :=
  ⟨rfl, by decide, by decide +kernel, free_free⟩

theorem witness_FrameBodiesSpellTheirCommands :
    (Instr.jobClose 7 [1, 0]).wf = true ∧ bodyOf (.jobClose 7 [1, 0]) = some [0x05, 7, 1, 0] := by decide

theorem witness_BrokenFramesAreNoise :
    Busy 1 busy ∧ busy.link.rx = .idle ∧ (0 : Byte) ≠ 0xA5 ∧ 250 < (251 : Byte).toNat ∧
    (0xB4 : Byte) ≠ crc8 (BitVec.ofNat 8 2 :: [0x01, 0x10]) ∧
    ({ busy with link := { busy.link with rx := .body 1 [] } } : State).link.rx ≠ .idle :=
  ⟨busy_busy 1 (by decide), by decide +kernel⟩

/-- An answer waits behind the frame in transmission. -/
def waiting (s : State) : State :=
  { s with link := { s.link with answer := some { kind := 0x01, tag := 1, result := .ok, fields := .empty } } }

theorem witness_BuffersAreBounded :
    busy.part.Settled ∧ busy.link.sending = some (.notice { seq := 0, notice := .jobHeld 9 }) ∧ busy.link.answer = none ∧
    busy.link.buffer = [] ∧ (waiting busy).link.answer.isSome = true ∧ unknownBodyOk [0x14, 7] = true ∧
    ({ waiting busy with link := { (waiting busy).link with buffer := [[0x14, 7], [0x14, 8]] } } : State).link.buffer.length = 2 ∧
    State.reset.link.outbox.length = 20 ∧
    32 ≤ (State.reset.link.outbox ++ State.reset.link.outbox).length ∧
    hasCondition busy.part.faults.attention .noticeLost = false :=
  ⟨rfl, rfl, rfl, rfl, rfl, by decide, rfl, by decide +kernel, by decide +kernel, by decide⟩

theorem witness_TheNextFrameIsSent :
    busy.part.Settled ∧ busy.link.sending = some (.notice { seq := 0, notice := .jobHeld 9 }) ∧ busy.link.buffer = [] ∧
    (waiting busy).link.answer.isSome = true ∧ State.reset.link.answer = none ∧ State.reset.link.outbox ≠ [] ∧
    State.reset.part.faults.owed = none ∧ busy.link.outbox = [] ∧
    (tweak State.reset fun p => { p with faults := { p.faults with owed := some 0x40 } }).part.faults.owed = some 0x40 :=
  ⟨rfl, rfl, rfl, rfl, rfl, by decide, rfl, rfl, rfl⟩

theorem witness_StartsFollowTheTable :
    (run (.restart 7 []) free).link.sending = some (.answer { kind := 0x13, tag := 7, result := .ok, fields := .empty }) := by
  decide +kernel

theorem witness_ALostCarriageHaltsOrRestarts :
    (carriageAt .travelling busy).part.Settled ∧ (carriageAt .travelling busy).part.ctl.mode ≠ .halted ∧
    (carriageAt .travelling busy).part.carriage.state = .travelling ∧
    (carriageAt .travelling busy).part.carriage.target = some (.bin 1) ∧
    (carriageAt .travelling busy).part.carriage.deadline.isSome = true ∧
    (carriageAt .travelling busy).part.faults.fatalAction = .halt ∧
    State.reset.part.carriage.state = .homing ∧ State.reset.part.carriage.deadline.isSome = true ∧
    (tweak (carriageAt .travelling busy) fun p => { p with faults := { p.faults with fatalAction := .restart } }).part.faults.fatalAction
      = .restart := ⟨rfl, by decide, rfl, rfl, rfl, rfl, rfl, rfl, rfl⟩

theorem witness_HaltedIgnoresEvents :
    (inMode .halted busy).part.Settled ∧ (inMode .halted busy).part.ctl.mode = .halted ∧
    (inMode .service busy).part.ctl.mode = .service ∧ (inMode .service busy).part.conv.state = .idle ∧
    (stoppedWith none none busy).part.conv.state = .stopped ∧ (inMode .starting busy).part.ctl.mode = .starting ∧
    (tweak busy fun p => { p with path := { p.path with stopped := true } }).part.path.stopped = true :=
  ⟨rfl, rfl, rfl, rfl, rfl, rfl, rfl⟩

/-! ### The sort path -/

theorem witness_EntryTicketsTheSheet :
    (printing busy).part.Settled ∧ (printing busy).part.ctl.mode = .automatic ∧ (printing busy).part.path.stopped = false ∧
    (printing busy).part.path.tickets.length < 5 ∧ (printing busy).part.runs.current = some run1 ∧
    run1.assigned + 1 < run1.selected.length ∧ (printing busy).part.job? run1.job = some job1 ∧
    job1.bins[run1.selected.getD run1.assigned 0 - 1]? = some { bin := 1, released := false } ∧
    run1.page ∉ ((printing busy).part.bin 1).set.pages ∧
    ((printing busy).part.bin 1).state ∈ [BinState.assigned, .filling] ∧
    (binIs 1 { state := .filling, set := { pages := [1] } } (printing busy)).part.bin 1
      = { state := .filling, set := { pages := [1] } } ∧
    ((binIs 1 { state := .filling, set := { stack := 6901 } } (printing busy)).part.bin 1).set.stack + 100 > 7000 :=
  ⟨rfl, by decide +kernel⟩

theorem witness_EntryAtTheRunBoundary :
    Busy 1 (printing busy) ∧ (printing busy).part.ctl.mode = .automatic ∧
    (tweak (printing busy) fun p =>
      { p with runs := { p.runs with current := some { run1 with assigned := 1 } } }).part.runs.current
      = some { run1 with assigned := 1 } ∧
    ({ run1 with assigned := 1 } : Run).assigned + 1 = run1.selected.length ∧ run1.state ≠ .draining ∧
    job1.bins[run1.selected.getD 1 0 - 1]? = some { bin := 2, released := false } ∧
    ((printing busy).part.bin 2).state = .assigned ∧ busy.part.runs.current = none ∧ busy.part.path.purgeFull = false :=
  ⟨busy_printing 1 (by decide), by decide +kernel⟩

/-- A ticket in flight to bin 1, the mechanism at work. -/
def falling (s : State) : State := working (ticketed s)

theorem witness_DepositSettlesTheSheet :
    Busy 1 (falling busy) ∧ (falling busy).part.ctl.mode = .automatic ∧ (falling busy).part.path.stopped = false ∧
    (falling busy).part.path.tickets = [] ++ ticket1 (.bin 1) :: [] ∧ ((falling busy).part.bin 1).set.void = false ∧
    (falling busy).part.AtWork ∧ (falling busy).part.runs.finishing = [] ∧
    (let s := tweak (falling busy) fun p =>
      { p with runs := { p.runs with current := none, finishing := [{ run1 with state := .finishing }] } }
     s.part.runs.finishing = [{ run1 with state := .finishing }] ∧ (∀ x ∈ s.part.runs.current, x.id ≠ 0) ∧
     s.part.job? 1 = some job1 ∧ job1.state ≠ .closing) :=
  ⟨⟨rfl, rfl, by decide⟩, rfl, rfl, rfl, by decide +kernel, atWork_working _, rfl, by decide +kernel⟩

/-- Bin 1 ASSIGNED and VOID with `n` sheets on their way. -/
def voidBin1 (n : Nat) (pages : List Nat) (s : State) : State :=
  binIs 1 { state := if pages = [] then .assigned else .filling
            set := { job := some 1, copy := some 1, pages := pages, void := true, inboundSheets := n, inboundMicrons := 100 * n } } s

theorem witness_DepositInAVoidBin :
    Busy 1 (voidBin1 1 [] (falling busy)) ∧ (voidBin1 1 [] (falling busy)).part.AtWork ∧
    (voidBin1 1 [] (falling busy)).part.path.tickets = [] ++ ticket1 (.bin 1) :: [] ∧
    ((voidBin1 1 [] (falling busy)).part.bin 1).set.void = true ∧ ((voidBin1 1 [] (falling busy)).part.bin 1).set.inboundSheets ≤ 1 ∧
    2 ≤ ((voidBin1 2 [1] (falling busy)).part.bin 1).set.inboundSheets ∧ (falling busy).part.runs.finishing = [] :=
  ⟨⟨rfl, rfl, by decide⟩, atWork_working _, by decide +kernel⟩

theorem witness_PurgeArrivalSettlesTheSheet :
    let s := working (tweak (printing busy) fun p => { p with path := { p.path with
      tickets := [ticket1 (.bin 1), ticket1 (.purge .capacity)] } })
    s.part.Settled ∧ s.part.ctl.mode = .automatic ∧ s.part.path.stopped = false ∧
    s.part.path.tickets = [ticket1 (.bin 1)] ++ ticket1 (.purge .capacity) :: [] ∧
    (ticket1 (.purge .capacity)).ref.isSome = true ∧ s.part.AtWork ∧ s.part.runs.finishing = [] :=
  ⟨rfl, rfl, rfl, rfl, rfl, atWork_working _, rfl⟩

theorem witness_PathFaultsEnterService :
    (ticketed busy).part.Settled ∧ (ticketed busy).part.ctl.mode = .automatic ∧ (ticketed busy).part.path.stopped = false ∧
    (ticketed busy).part.path.tickets = [ticket1 (.bin 1)] ∧ (∀ x ∈ (ticketed busy).part.path.tickets, x.target ≠ .bin 48) ∧
    5 ≤ (List.replicate 5 (ticket1 (.purge .drain))).length ∧
    (tweak busy fun p => { p with path := { p.path with purgeFull := true } }).part.path.purgeFull = true ∧
    (inMode .parked busy).part.ctl.mode = .parked ∧
    (tweak (inMode .waking busy) fun p => { p with ctl := { p.ctl with wakingDeadline := some 4000 } }).part.ctl.wakingDeadline
      = some 4000 :=
  ⟨rfl, by decide +kernel⟩

/-- Four sheets in flight: two of the CURRENT run for bin 1, one of a settling run for bin 2, and a stray; a second run settles. -/
def inFlight (s : State) : State :=
  let ticket (n : Nat) (ref : Option RunRef) (t : Target) : Ticket :=
    { ordinal := n, ref := ref, target := t, caliper := 100, deadline := 1500 + n }
  tweak (binIs 1 { state := .filling, set := { job := some 1, copy := some 1, pages := [1], stack := 100
                                               inboundSheets := 2, inboundMicrons := 200 } }
      (binIs 2 { state := .assigned, set := { job := some 1, copy := some 2, inboundSheets := 1, inboundMicrons := 100 } }
        (printing s))) fun p =>
    { p with
      runs := { p.runs with
        current := some { run1 with id := 4, page := 2 }
        finishing := [{ run1 with id := 3, state := .finishing, lost := [7] }, { run1 with id := 9, state := .finishing }] }
      path := { p.path with tickets :=
        [ticket 1 (some { run := 3, job := 1, page := 1, copy := 2 }) (.bin 2), ticket 2 none (.purge .stray),
          ticket 3 (some { run := 4, job := 1, page := 2, copy := 1 }) (.bin 1),
          ticket 4 (some { run := 4, job := 1, page := 3, copy := 2 }) (.bin 1)] } }

theorem losesPlainly_inFlight : LosesPlainly (inFlight busy) := by
  refine ⟨rfl, by decide, fun x hx b hb => ?_, fun r hr j hj => ?_⟩
  · have h : ∀ x ∈ (inFlight busy).part.path.tickets, x.target = .bin 1 ∨ x.target = .bin 2 ∨ x.target = .purge .stray := by
      decide +kernel
    rcases h x hx with h | h | h <;> rw [h] at hb <;> cases hb <;> decide +kernel
  · have h : ∀ r ∈ (inFlight busy).part.runs.finishing, (inFlight busy).part.job? r.job = some job1 := by decide +kernel
    rw [h r hr] at hj
    cases hj
    decide

theorem witness_PathFaultsLoseTheTickets :
    LosesPlainly (inFlight busy) ∧ (inFlight busy).part.path.tickets.length = 4 ∧
    (run .ticketDeadline (inFlight busy)).link.outbox.length = 5 ∧
    (let s := tweak (ticketed busy) fun p => { p with path := { p.path with purgeFull := true } }
     s.part.path.tickets.length < 5 ∧ s.part.path.purgeFull = true ∧ s.part.runs.current = some run1 ∧
     s.part.job? run1.job = some job1 ∧ job1.bins[run1.selected.getD run1.assigned 0 - 1]? = some { bin := 1, released := false } ∧
     (∃ x ∈ s.part.path.tickets, x.target = .bin 1 ∧ x.ref.map RunRef.page = some run1.page) ∧
     7000 < ((binIs 1 { state := .filling, set := { stack := 6901 } } s).part.bin 1).set.stack + run1.caliper.getD 0) :=
  ⟨losesPlainly_inFlight, by decide +kernel⟩

theorem witness_LevelEventsAreNoted :
    Busy 1 busy ∧ busy.part.ctl.mode ≠ .halted ∧ Busy 1 (inMode .starting busy) ∧
    (inMode .starting busy).part.ctl.mode = .starting :=
  ⟨busy_busy 1 (by decide), by decide, busy_inMode 1 _ (by decide), rfl⟩

theorem witness_DoorAndKeyByMode :
    busy.part.Settled ∧ busy.part.ctl.mode = .automatic ∧ (inMode .service busy).part.ctl.mode = .service ∧
    (inMode .starting busy).part.ctl.mode = .starting ∧ State.reset.part.carriage.state = .homing ∧
    (carrying trip1 busy).part.conv.state = .carrying := ⟨rfl, rfl, rfl, rfl, rfl, rfl⟩

theorem witness_DoorLosesTheTickets :
    LosesPlainly (inFlight busy) ∧ (inFlight busy).part.ctl.mode = .automatic ∧
    (voidBin1 1 [1] (ticketed busy)).part.path.tickets = [ticket1 (.bin 1)] ∧
    ((voidBin1 1 [1] (ticketed busy)).part.bin 1).set.void = true ∧
    ((voidBin1 1 [1] (ticketed busy)).part.bin 1).set.pages ≠ [] ∧ (ticketed busy).part.runs.finishing = [] ∧
    ((voidBin1 1 [] (ticketed busy)).part.bin 1).set.pages = [] ∧ (ticketed busy).part.jobs.queue = [] ∧
    (∀ j ∈ (ticketed busy).part.jobs.jobs, j.state = .active) :=
  ⟨losesPlainly_inFlight, by decide +kernel⟩

theorem witness_WakingAndIdlingEnd :
    Busy 2 (inMode .waking busy) ∧ (inMode .waking busy).part.ctl.mode = .waking ∧
    (inMode .waking busy).part.carriage.queue = [] ∧ (inMode .waking busy).part.conv.queue = [] ∧
    (inMode .waking busy).part.IdleCond ∧ (inMode .waking busy).part.ctl.parkPending = false ∧
    (inMode .waking busy).part.ctl.idleTimer = none ∧ (inMode .waking busy).part.ctl.idleTime ≠ 0 ∧
    (inMode .waking (printing busy)).part.idle = false ∧
    (tweak busy fun p => { p with ctl := { p.ctl with idleTimer := some 600000 } }).part.ctl.idleTimer = some 600000 :=
  ⟨busy_inMode 2 _ (by decide), rfl, rfl, rfl, ⟨rfl, rfl, rfl, rfl, rfl, rfl, rfl, rfl⟩, by decide +kernel⟩

/-! ### The carriage, the conveyor, the drawers -/

/-- Bin 1 STITCHING a set of two stitches, one made. -/
def halfway (s : State) : State :=
  binIs 1 { state := .stitching, set := { set1 with
    plan := some { stitches := 2, h := 8, clinch := 1, wire := 40, reason := none } } } (carriageAt .stitching s)

theorem witness_AStitchCycleStarts :
    (carriageAt .travelling busy).part.Settled ∧ (carriageAt .travelling busy).part.ctl.mode ≠ .halted ∧
    12 + ((halfway busy).part.bin 1).set.planned.h ≤ (halfway busy).part.carriage.wire ∧
    (carriageAt .travelling busy).part.carriage.target = some (.bin 1) ∧
    (halfway busy).part.carriage.held = some { bin := 1, cond := .taken } ∧
    ((halfway busy).part.bin 1).set.made < ((halfway busy).part.bin 1).set.planned.stitches ∧
    (halfway busy).part.ctl.mode ≠ .service := ⟨rfl, by decide +kernel⟩

/-- WAKING with an urgent set and two normal ones waiting, WIRE_LOW and WIRE_OUT latched, the conveyor carrying. -/
def wakes (wire : Nat) : State :=
  carrying trip1 (inMode .waking (tweak (jobs12 .urgent (waitsFor 4 2 0 (waitsFor 3 2 1 (waitsFor 2 1 0 (jobIs .active busy))))) fun p =>
    { p with carriage := { p.carriage with wire := wire }, faults := { p.faults with attention := 3 } }))

theorem witness_TheTakeCheckTakes :
    Busy 1 (wakes 25) ∧ (wakes 25).part.ctl.mode = .waking ∧ (wakes 25).part.carriage.state = .idle ∧
    (wakes 25).part.conv.state ≠ .idle ∧ (wakes 25).part.carriage.queue = [2] ++ 3 :: [4] ∧
    (wakes 25).part.carriage.position ≠ .bin 3 ∧
    (let need (c : Nat) := ((wakes 25).part.bin c).set.planned.wire
       - ((wakes 25).part.bin c).set.made * (12 + ((wakes 25).part.bin c).set.planned.h)
     25 < need 2 ∧ need 3 ≤ 25 ∧ ∀ d ∈ (wakes 15).part.carriage.queue, 15 < need d) ∧
    (wakes 15).part.carriage.queue.Nodup ∧
    (wakes 15).part.carriage.queue.filter (fun d => (wakes 15).part.wireRuleOf d = .unstitched) = [3, 4] ∧
    (run .transportReady (wakes 15)).part.carriage.queue = [2] :=
  ⟨⟨rfl, rfl, by decide⟩, by decide +kernel⟩

/-- The carriage on its way to bin 1 in AUTOMATIC with 15 mm of wire, an urgent set of job 1 waiting in bin 2. -/
def arrivesShort (c : CarriageState) : State :=
  tweak (jobs12 .urgent (waitsFor 2 1 0 (binIs 1 { state := .stitching, set := { set1 with
      made := 0, plan := some { stitches := 2, h := 8, clinch := 1, wire := 40, reason := none } } } (jobIs .active (carriageAt c busy)))))
    fun p => { p with carriage := { p.carriage with wire := 15 }, faults := { p.faults with attention := 2 } }

theorem witness_AShortSetIsReturned :
    (arrivesShort .travelling).part.Settled ∧ (arrivesShort .travelling).part.ctl.mode = .automatic ∧
    (arrivesShort .travelling).part.carriage.wire < 12 + ((arrivesShort .travelling).part.bin 1).set.planned.h ∧
    hasCondition (arrivesShort .travelling).part.faults.attention .wireOut = true ∧
    (arrivesShort .travelling).part.carriage.queue = [2] ++ [] ∧ (arrivesShort .travelling).part.priorityOf 2 = .urgent ∧
    (∀ c ∈ [1, 2], (arrivesShort .travelling).part.wireRuleOf c = .wait ∧
      15 < ((arrivesShort .travelling).part.bin c).set.planned.wire) ∧
    (arrivesShort .stitching).part.carriage.held = some { bin := 1, cond := .taken } ∧
    ((arrivesShort .stitching).part.bin 1).set.made < ((arrivesShort .stitching).part.bin 1).set.planned.stitches :=
  ⟨rfl, by decide +kernel⟩

theorem witness_StitchDoneEndsTheSet :
    (let s := carrying trip1 (binIs 1 { state := .stitching, set := set1 } (carriageAt .stitching busy))
     s.part.Settled ∧ s.part.carriage.held = some { bin := 1, cond := .taken } ∧ s.part.ctl.mode = .automatic ∧
     s.part.carriage.queue = [] ∧ s.part.conv.state ≠ .idle ∧
     (s.part.bin 1).set.planned.stitches ≤ (s.part.bin 1).set.made) ∧
    (inMode .service (halfway busy)).part.ctl.mode = .service ∧
    (carriageAt .stopped busy).part.carriage.state ≠ .stitching := ⟨⟨rfl, by decide +kernel⟩, rfl, by decide⟩

theorem witness_AStitchJamStopsTheCarriage :
    Busy 2 (carriageAt .stitching busy) ∧ (carriageAt .stitching busy).part.carriage.state = .stitching ∧
    (carriageAt .stitching busy).part.carriage.held = some { bin := 1, cond := .taken } ∧
    (carriageAt .stitching busy).part.carriage.deadline = some 3000 ∧
    (carriageAt .stitching busy).part.faults.first = none ∧ (carriageAt .stitching busy).part.path.tickets = [] ∧
    (carriageAt .stitching busy).part.path.unticketed = 0 ∧ (carriageAt .stitching busy).part.runs.finishing = [] ∧
    (carriageAt .stitching busy).part.conv.state = .idle := ⟨busy_tweak 2 _ (by decide) rfl, rfl, rfl, rfl, rfl, rfl, rfl, rfl, rfl⟩

/-- The carriage homing, in a mode. -/
def homing (m : Mode) (s : State) : State :=
  inMode m (tweak s fun p => { p with carriage := { p.carriage with state := .homing } })

theorem witness_CarriageHomeEndsHoming :
    Busy 4 (homing .starting busy) ∧ (homing .starting busy).part.carriage.queue = [] ∧
    (homing .starting busy).part.conv.queue = [] ∧ (homing .starting busy).part.path.tickets = [] ∧
    (homing .starting busy).part.conv.state = .idle ∧
    (∀ b < 49, 1 ≤ b → ((homing .starting busy).part.bin b).state ≠ .orphan) ∧
    5000 ≤ (homing .starting busy).part.carriage.wire ∧ (homing .starting busy).part.ctl.mode = .starting ∧
    (homing .service (printing busy)).part.runs.current.isSome = true ∧ busy.part.carriage.state = .idle :=
  ⟨⟨rfl, rfl, by decide⟩, by decide +kernel⟩

/-- STARTING with paper in bins 2 and 5, `wire` mm of wire, SLIP_LOW present, the slip stack empty or not, and the overflow tray
found occupied or not. -/
def orphans25 (wire : Nat) (out full : Bool) (s : State) : State :=
  tweak (binIs 5 Bin.orphan (binIs 2 Bin.orphan (homing .starting s))) fun p => { p with
    carriage := { p.carriage with wire := wire }
    conv := { p.conv with slipLow := true, slipOut := out, tray := { p.conv.tray with heldFull := full } } }

theorem witness_OrphansAreQueuedAtTheEndOfStarting :
    Busy 4 (orphans25 4999 true false busy) ∧ (orphans25 4999 true false busy).part.ctl.mode = .starting ∧
    (List.range' 1 48).filter (fun b => ((orphans25 4999 true false busy).part.bin b).state = .orphan) = 2 :: [5] ∧
    (∀ d ∈ [2, 5], ((orphans25 4999 true false busy).part.bin d).set =
      { void := true, plan := some { stitches := 0, h := 0, clinch := 0, wire := 0, reason := none } }) ∧
    (orphans25 4999 true false busy).part.conv.tray.groups = [] ∧ (orphans25 0 false true busy).part.conv.tray.heldFull = true ∧
    (orphans25 4999 true false busy).part.conv.tray.sets + 1 ≤ 80 ∧
    (tweak (orphans25 0 false false busy) fun p => { p with ctl := { p.ctl with keyOn := true } }).part.ctl.keyOn = true :=
  ⟨⟨rfl, rfl, by decide⟩, by decide +kernel⟩

theorem witness_SlipStepEnds :
    let s := tweak busy fun p => { p with conv := { p.conv with state := .slip, trip := some trip1 } }
    Busy 1 s ∧ s.part.ctl.mode ≠ .halted ∧ s.part.conv.trip = some trip1 ∧ s.part.conv.state = .slip ∧
    trip1.deadline = some 5000 ∧ (carrying trip1 busy).part.conv.state ≠ .slip :=
  ⟨busy_tweak 1 _ (by decide) rfl, by decide, rfl, rfl, rfl, by decide⟩

theorem witness_BinEmptiedFreesTheBin :
    let s := carrying { trip1 with emptied := false } (printing busy)
    s.part.Settled ∧ s.part.ctl.mode ≠ .halted ∧ s.part.conv.trip = some { trip1 with emptied := false } ∧
    s.part.conv.state = .carrying ∧ trip1.job = (s.part.bin 1).set.job ∧ s.part.jobs.queue = [] ∧ trip1.bin ≠ 48 :=
  ⟨rfl, by decide +kernel⟩

/-- The same with job 3 waiting for `n` bins, and job 7 for 48 behind it. -/
def grants (n : Nat) : State :=
  tweak (carrying { trip1 with emptied := false } (printing busy)) fun p => { p with jobs :=
    { jobs := p.jobs.jobs ++ [{ job7 .normal with number := 3, copies := n }, job7 .normal], queue := [3, 7] } }

theorem witness_BinEmptiedGrants :
    Busy 1 (grants 46) ∧ (grants 46).part.jobs.queue = 3 :: [7] ∧ ((grants 46).part.job? 3).map Job.copies = some 46 ∧
    ((grants 46).part.job? 7).map Job.copies = some 48 ∧ (grants 46).part.conv.state = .carrying ∧
    trip1.job = ((grants 46).part.bin 1).set.job ∧
    46 ≤ ((grants 46).part.setBin 1 { state := .free, set := {} }).freeBins.length ∧
    ((grants 46).part.setBin 1 { state := .free, set := {} }).freeBins.length < 46 + 48 ∧
    ((grants 48).part.setBin 1 { state := .free, set := {} }).freeBins.length < 48 :=
  ⟨⟨rfl, rfl, by decide⟩, by decide +kernel⟩

theorem witness_ArrivalAtTheDrawer :
    let s := carrying trip1 (printing busy)
    Busy 2 s ∧ s.part.ctl.mode = .automatic ∧ s.part.conv.trip = some trip1 ∧ trip1.emptied = true ∧
    trip1.place = .drawer 3 ∧ (s.part.drawers.drawer 3).pile = some { count := 0, stack := 0 } ∧
    trip1.job = some job1.number ∧ s.part.job? job1.number = some job1 ∧ s.part.conv.queue = [] ∧
    s.part.runs.current.isSome = true ∧ (∃ e ∈ job1.bins, e.released = false) ∧
    (tweak s fun p => { p with jobs := { p.jobs with
      jobs := [{ job1 with state := .finishing, bins := [{ bin := 1, released := true }] }] } }).part.job? job1.number
      = some { job1 with state := .finishing, bins := [{ bin := 1, released := true }] } ∧
    (let j : Job := { job1 with number := 8, state := .cancelling, bins := [] }
     let u := tweak (carrying { trip1 with job := some 8 } s) fun p => { p with jobs := { p.jobs with jobs := [j] } }
     u.part.job? 8 = some j ∧ (∀ r ∈ u.part.runs.current.toList ++ u.part.runs.finishing, r.job ≠ 8)) :=
  ⟨⟨rfl, rfl, by decide⟩, by decide +kernel⟩

theorem witness_ArrivalAtTheTray :
    let t : Trip := { trip1 with job := none, dest := none, place := .overflow, header := some .joins }
    let s := tweak (carrying t (printing busy)) fun p =>
      { p with conv := { p.conv with tray := { p.conv.tray with groups := [{ key := none, count := 1, marked := true }] } } }
    Busy 2 s ∧ s.part.ctl.mode = .automatic ∧ s.part.conv.trip = some t ∧ t.emptied = true ∧ t.place = .overflow ∧
    t.job = none ∧ s.part.conv.queue = [] ∧ s.part.runs.current.isSome = true ∧
    s.part.conv.tray.groups = [] ++ [{ key := none, count := 1, marked := true }] ∧
    ({ t with header := some .marked } : Trip).header = some .marked ∧
    (let t : Trip := { trip1 with place := .overflow, header := some .unmarked }
     (carrying t (printing busy)).part.conv.trip = some t ∧ t.job = some job1.number ∧
     (carrying t (printing busy)).part.job? 1 = some job1 ∧ (∃ e ∈ job1.bins, e.released = false)) ∧
    (let j : Job := { job1 with state := .finishing, bins := [{ bin := 1, released := true }] }
     (tweak s fun p => { p with jobs := { p.jobs with jobs := [j] } }).part.job? 1 = some j ∧
     ∀ e ∈ j.bins, e.released = true) :=
  ⟨⟨rfl, rfl, by decide⟩, by decide +kernel⟩

theorem witness_ConveyorFaultsEnterService :
    (carrying trip1 busy).part.Settled ∧ (carrying trip1 busy).part.ctl.mode = .automatic ∧
    (carrying trip1 busy).part.conv.state = .carrying ∧ (carrying trip1 busy).part.conv.trip = some trip1 ∧
    trip1.deadline.isSome = true ∧ trip1.proving = false ∧ Place.drawer 20 ≠ trip1.place ∧
    ({ trip1 with emptied := false } : Trip).emptied = false ∧ busy.part.conv.state = .idle :=
  ⟨rfl, rfl, rfl, rfl, rfl, rfl, by decide, rfl, rfl⟩

/-- A carry that proves whether its set left its bin, in SERVICE under a resume. -/
def proves (t : Trip) : State :=
  tweak (carrying { t with proving := true } (printing busy)) fun p => { p with ctl := { p.ctl with mode := .service, resumeFlag := true } }

theorem witness_ConveyorFaultsInService :
    Busy 2 (proves trip1) ∧ (proves trip1).part.ctl.mode = .service ∧
    (proves trip1).part.conv.trip = some { trip1 with proving := true } ∧ trip1.deadline = some 5000 ∧
    (proves trip1).part.job? 1 = some job1 ∧ (∃ e ∈ job1.bins, e.released = false) ∧
    (proves { trip1 with emptied := false }).part.conv.trip.map Trip.emptied = some false ∧
    (proves { trip1 with job := none }).part.conv.trip.map Trip.job = some none ∧
    (let j : Job := { job1 with number := 8, state := .cancelling, bins := [] }
     let s := tweak (proves { trip1 with job := some 8 }) fun p => { p with jobs := { p.jobs with jobs := [j] } }
     s.part.job? 8 = some j ∧ ∀ r ∈ s.part.runs.current.toList ++ s.part.runs.finishing, r.job ≠ 8) :=
  ⟨⟨rfl, rfl, by decide⟩, by decide +kernel⟩

theorem witness_OverflowEmptiedClearsTheTray :
    (working busy).part.Settled ∧ (working busy).part.ctl.mode ≠ .halted ∧ (working busy).part.AtWork ∧
    (∀ e ∈ (working busy).part.conv.queue, e.placeable ≠ some false) :=
  ⟨rfl, by decide, atWork_working _, by decide⟩

/-- Bin 1's set finished at the carriage, drawer 3 OPEN for its destination with 19 sets of 39800 µm. -/
def finished (s : State) : State :=
  tweak (binIs 1 { state := .stitching, set := set1 } (carriageAt .stitching (printing s))) fun p =>
    { p with drawers := p.drawers.setDrawer 3 (openFor5 false 19 39800) }

theorem witness_AFinishedSetIsEjectedToItsDrawer :
    (finished busy).part.Settled ∧ (finished busy).part.ctl.mode = .automatic ∧
    (finished busy).part.carriage.held = some { bin := 1, cond := .taken } ∧ (finished busy).part.bin 1
      = { state := .stitching, set := set1 } ∧ set1.planned.stitches ≤ set1.made ∧ set1.void = false ∧
    (finished busy).part.job? 1 = some job1 ∧ (finished busy).part.conv.state = .idle ∧
    ((finished busy).part.drawers.drawer 3).state = .open ∧ ((finished busy).part.drawers.drawer 3).dest = some job1.dest ∧
    (∀ e < 21, 1 ≤ e → e ≠ 3 → ((finished busy).part.drawers.drawer e).state = .open →
      ((finished busy).part.drawers.drawer e).dest ≠ some job1.dest) ∧ 39800 + set1.stack ≤ 40000 :=
  ⟨rfl, by decide +kernel⟩

/-- WAKING, the carriage at work, with the sets of `sets` waiting for their trips, no drawer for destination 5 but drawer 3 OPEN
with 20 sets, and the tray with a stack and groups. -/
def traybound (sets : List (Nat × SetRecord)) (stack : Nat) (groups : List Group) : State :=
  let full := [11, 12, 17, 18, 19, 20].foldl (fun m d => m.setDrawer d (openFor 9 false 1 1))
    (free.part.drawers.setDrawer 3 (openFor5 false 20 100))
  inMode .waking (tweak (carriageAt .stitching (jobIs .active (sets.foldl (fun s x => binIs x.1 { state := .ejectWait, set := x.2 } s)
      busy))) fun p => { p with
    drawers := full
    conv := { p.conv with
      queue := sets.map fun x => { bin := x.1, placeable := none }
      tray := { sets := 3, stack := stack, heldFull := false, groups := groups } }
    faults := { p.faults with attention := 0x10 } })

/-- A void set. -/
def voidSet : SetRecord :=
  { set1 with void := true, plan := some { stitches := 0, h := 0, clinch := 0, wire := 0, reason := none } }

theorem witness_ASetGoesToTheTray :
    (let s := traybound [(1, set1)] 1000 [{ key := some 5, count := 1, marked := true }]
     Busy 3 s ∧ s.part.ctl.mode = .waking ∧ s.part.carriage.state ≠ .idle ∧ s.part.conv.state = .idle ∧
     (s.part.bin 1).set.job.bind s.part.job? = some { job1 with state := .active } ∧
     (s.part.drawers.resolve 5 200).place = .overflow ∧ (s.part.drawers.resolve 5 200).changes.length = 1 ∧
     s.part.conv.tray.stack + (s.part.bin 1).set.stack ≤ 120000 ∧
     s.part.conv.tray.groups.getLast?.map Group.key = some (some 5)) ∧
    (let s := traybound [(1, set1), (2, voidSet), (3, set1)] 119800 [{ key := none, count := 1, marked := true }]
     s.part.conv.queue = [{ bin := 1, placeable := none }] ++ { bin := 2, placeable := none } :: [{ bin := 3, placeable := none }] ∧
     hasCondition s.part.faults.attention .overflowFull = true ∧ (s.part.bin 2).set.void = true ∧
     120000 < s.part.conv.tray.stack + (s.part.bin 1).set.stack + 150 ∧
     s.part.conv.tray.stack + (s.part.bin 2).set.stack ≤ 120000) ∧
    120000 < (traybound [(1, set1)] 119801 []).part.conv.tray.stack + set1.stack :=
  ⟨⟨⟨rfl, rfl, by decide⟩, by decide +kernel⟩, by decide +kernel⟩

/-- Drawer 4 with a record. -/
def drawer4 (r : Drawer) (s : State) : State := working (tweak s fun p => { p with drawers := p.drawers.setDrawer 4 r })

theorem witness_CollectedByDrawerState :
    Busy 1 (working busy) ∧ (working busy).part.ctl.mode ≠ .halted ∧ (working busy).part.AtWork ∧
    ((working busy).part.drawers.drawer 4).state = .unassigned ∧
    (let full : Drawer := { dest := some 9, state := .full, locked := false, pile := none, awaited := false }
     ((drawer4 full busy).part.drawers.drawer 4).state = .full ∧
     (∀ e < 21, 1 ≤ e → ((drawer4 full busy).part.drawers.drawer e).state ≠ .open) ∧
     ((tweak (drawer4 full busy) fun p => { p with drawers := p.drawers.setDrawer 20 { full with state := .open } }).part.drawers.drawer
       20).state = .open ∧
     ((drawer4 { full with state := .closing, awaited := true } busy).part.drawers.drawer 4).awaited = true ∧
     ((drawer4 { full with state := .closing } busy).part.drawers.drawer 4).state = .closing) :=
  ⟨⟨rfl, rfl, by decide⟩, by decide, atWork_working _, by decide +kernel⟩

/-- Drawer 4 FULL and locked to destination 5, drawer 11 with a record. -/
def other11 (r : Drawer) (s : State) : State :=
  tweak (drawer4 { dest := some 5, state := .full, locked := true, pile := none, awaited := false } s) fun p =>
    { p with drawers := p.drawers.setDrawer 11 r }

theorem witness_ALockedDrawerIsCollected :
    Busy 2 (other11 (openFor5 false 0 0) busy) ∧ (other11 (openFor5 false 0 0) busy).part.AtWork ∧
    ((other11 (openFor5 false 0 0) busy).part.drawers.drawer 4).state = .full ∧
    ((other11 (openFor5 false 0 0) busy).part.drawers.drawer 4).locked = true ∧
    (∀ c < 21, 1 ≤ c → (((other11 (openFor5 false 0 0) busy).part.drawers.drawer c).state = .open ∧
      ((other11 (openFor5 false 0 0) busy).part.drawers.drawer c).dest = some 5 ↔ c = 11)) ∧
    ((other11 (openFor5 false 3 10) busy).part.drawers.drawer 11).pile = some { count := 3, stack := 10 } :=
  ⟨⟨rfl, rfl, by decide⟩, atWork_working _, by decide +kernel⟩

theorem witness_ResolutionEndsAtAnOpenDrawer :
    (free.part.drawers.resolve 5 100).place = .drawer 11 ∧ ((finished busy).part.drawers.resolve 5 200).place = .drawer 3 := by
  decide +kernel

theorem witness_TheOrderOfAllocation :
    (∀ c < 21, (free.part.drawers.drawer c).state ≠ .open) ∧ (free.part.drawers.drawer 11).state = .unassigned ∧
    (bothWays.drawer 11).dest = some 13 ∧ bothWays.marker 5 = .one ∧ (bothWays.resolve 5 100).place = .drawer 12 ∧
    (let m := [11, 12, 17, 19].foldl (fun m d => m.setDrawer d (openFor 9 false 1 1)) free.part.drawers
     (m.resolve 5 100).place = .drawer 18 ∧
     let m := [18, 20].foldl (fun m d => m.setDrawer d (openFor 9 false 0 0)) m
     (m.resolve 5 100).place = .drawer 18 ∧ ({ m with tree := { m.tree with upperPair := true } }.resolve 5 100).place = .drawer 20) ∧
    ((traybound [] 0 []).part.drawers.resolve 5 100).place = .overflow ∧
    (∀ c < 21, 1 ≤ c → (((traybound [] 0 []).part.drawers.drawer c).state = .open ∧
      ((traybound [] 0 []).part.drawers.drawer c).dest = some 5 ↔ c = 3)) := by decide +kernel

theorem witness_StitchPlansFollowTheRules :
    (stitchPlan 50 5500 false false .edge2 .leave).reason = none ∧
    (stitchPlan 51 5500 false false .edge2 .leave).reason = some .overCapacity := by decide

/-! ### The invariants -/

theorem witness_invariants :
    ModeOk State.reset ∧ RangesOk State.reset ∧ LinkOk State.reset ∧ SlotsOk State.reset ∧
    step { State.reset with pending := [.keyOn] } = .next (run .keyOn State.reset) := by
  refine ⟨⟨rfl, by decide, by decide, by decide, by decide⟩, ⟨rfl, by decide +kernel, by decide, .inr (by decide), by decide, by decide⟩,
    ⟨rfl, trivial, by decide, by decide, by decide +kernel, by decide, by decide⟩,
    ⟨by decide, by decide, by decide, by decide⟩, rfl⟩

theorem witness_EveryStepBalancesTheSheets :
    State.reset.part.path.entryCount = State.reset.part.path.account.entered ∧
    step { State.reset with pending := [.keyOn] } = .next (run .keyOn State.reset) := ⟨rfl, rfl⟩

end Sys2Proof.Tests
end

section
/-! The shared checks of R156 for a request on a free link, and STOCK_SET (R75). -/

namespace Sys2Proof.Machine

/-! ## The checks of R156, one equation for each outcome -/

/-- R156 check 3. -/
theorem Part.request_of_wrongMode {p : Part} (l : Link) {r : RequestKind} (f : List Byte)
    (hm : p.ctl.mode ∉ acceptingModes r) : p.request l r f = p.refuse .wrongMode := by
  have hm : modeAccepts p.ctl.mode r = false := by rwa [← Bool.not_eq_true, modeAccepts_iff]
  simp [Part.request, hm]

/-- R156 check 4. -/
theorem Part.request_of_badLength {p : Part} (l : Link) {r : RequestKind} {f : List Byte}
    (hm : p.ctl.mode ∈ acceptingModes r) (hf : lengthOk r f = false) : p.request l r f = p.refuse .badLength := by
  simp [Part.request, (modeAccepts_iff _ _).mpr hm, hf]

/-- R156 check 5. -/
theorem Part.request_of_checked {p : Part} (l : Link) {r : RequestKind} {f : List Byte}
    (hm : p.ctl.mode ∈ acceptingModes r) (hf : lengthOk r f = true) : p.request l r f = p.act l r f := by
  simp [Part.request, (modeAccepts_iff _ _).mpr hm, hf]

/-- R156: a refused request on a free link is answered and changes nothing else. -/
theorem State.requestArrives_refused {s : State} (h : Free s) {r : RequestKind} (tag : Byte) {f : List Byte}
    (hf : f.length ≤ 248) {e : Result} (hr : s.part.request s.link r f = s.part.refuse e) :
    s.requestArrives r tag f = s.answered r tag e .empty :=
  State.request_quiet h tag hf s.part e .empty h.settled hr

/-- R145: the modes that accept STOCK_SET. -/
theorem Mode.serving_iff_accepts_stockSet (m : Mode) : m.Serving ↔ m ∈ acceptingModes .stockSet := by
  unfold Mode.Serving
  cases m <;> decide

/-! ## The stock table -/

/-- Defining an entry writes the stock table alone. -/
theorem Part.setStock_eq (p : Part) (c : Nat) (e : StockEntry) :
    p.setStock c e = { p with stock := (p.setStock c e).stock } := by
  unfold Part.setStock
  split <;> rfl

/-- R75: a caliper clamped, as the rule's two cases. -/
theorem clamp_eq_ite {lo hi : Nat} (h : lo ≤ hi) (n : Nat) :
    clamp lo hi n = if n < lo then lo else if hi < n then hi else n := by
  unfold clamp
  split_ifs <;> omega

/-- R75: the result STOCK_SET answers for an offered caliper, the stored one, and the slot flag. -/
def stockResult (v stored : Nat) (slot : Bool) : Result :=
  if stored ≠ v then .okAdjusted else if slot then .okDeferred else .ok

theorem Part.stockSet_of_badCode (p : Part) {f : List Byte} (hc : 7 < byteAt f 0) : p.stockSet f = p.refuse .badField := by
  simp [Part.stockSet, hc]

theorem Part.stockSet_of_code (p : Part) {f : List Byte} (hc : byteAt f 0 ≤ 7) :
    let stored := clamp 50 400 (wordAt f 1)
    let slot := p.runs.current.isSome || p.runs.pending.isSome
    p.stockSet f =
      (p.setStock (byteAt f 0) { defined := true, caliper := stored }).accept (stockResult (wordAt f 1) stored slot)
        (.caliper stored slot) := by
  simp only [Part.stockSet, if_neg (Nat.not_lt.mpr hc), stockResult]

/-- R75, R156: an accepted STOCK_SET on a free link. -/
theorem exec_stockSet_accepted {s : State} (h : Free s) (tag : Byte) {f : List Byte} (hm : s.part.ctl.mode.Serving)
    (hf : f.length = 3) (hc : byteAt f 0 ≤ 7) {stored : Nat} (hv : clamp 50 400 (wordAt f 1) = stored) :
    let slot := s.part.runs.current.isSome || s.part.runs.pending.isSome
    let p := s.part.setStock (byteAt f 0) { defined := true, caliper := stored }
    exec (.stockSet tag f) s =
      .next (({ s with part := { s.part with stock := p.stock } } : State).answered .stockSet tag
        (stockResult (wordAt f 1) stored slot) (.caliper stored slot)) := by
  subst hv
  intro slot p
  have acts : s.part.request s.link .stockSet f = p.accept (stockResult (wordAt f 1) _ slot) (.caliper _ slot) :=
    (Part.request_of_checked s.link ((Mode.serving_iff_accepts_stockSet _).mp hm) (by simp [lengthOk, hf])).trans
      (s.part.stockSet_of_code hc)
  have settled : p.Settled := (Part.setStock_out ..).trans h.settled
  rw [← Part.setStock_eq]
  exact congrArg Host.Outcome.next (State.request_quiet h tag (by omega) p _ _ settled acts)

/-- Settles O17: the checks of R156 in their order, then the clamped caliper read back from the stock table. -/
theorem stockSetDefinesTheEntry : Obligations.StockSetDefinesTheEntry := by
  intro s tag f hfree hlen refuses c v stored slot res
  have refused {e : Result} (h : s.part.request s.link .stockSet f = s.part.refuse e) : refuses e :=
    congrArg Host.Outcome.next (State.requestArrives_refused hfree tag hlen h)
  have accepts := Mode.serving_iff_accepts_stockSet s.part.ctl.mode
  refine ⟨fun hm => ?wrongMode, fun hm hf => ?badLength, fun hm hf hc => ?badCode, fun hm hf hc => ?defined⟩
  case wrongMode =>
    have notServing : ¬ s.part.ctl.mode.Serving := fun hs => hm.elim hs.1 hs.2
    exact refused (Part.request_of_wrongMode _ _ (mt accepts.mpr notServing))
  case badLength =>
    exact refused (Part.request_of_badLength _ (accepts.mp hm) (by simp [lengthOk, hf]))
  case badCode =>
    exact refused ((Part.request_of_checked _ (accepts.mp hm) (by simp [lengthOk, hf])).trans
      (s.part.stockSet_of_badCode hc))
  case defined =>
    have clamped : clamp 50 400 v = stored := clamp_eq_ite (by decide) v
    refine ⟨s.part.setStock c { defined := true, caliper := stored }, ?_, ?_, fun d hd => ?_⟩
    · exact exec_stockSet_accepted hfree tag hm hf hc clamped
    · have inTable : c < Config.numStocks := Nat.lt_succ_of_le hc
      simp [Part.stockAt_setStock, inTable]
    · simp [Part.stockAt_setStock, hd]

end Sys2Proof.Machine
end

section
/-! The stitch plan (R81 to R84). -/

namespace Sys2Proof.Machine

/-! ## The reason -/

theorem unstitchedReason_foreign (m t : Nat) (disordered : Bool) (pattern : Pattern) (rule : DisorderRule) :
    unstitchedReason m t true disordered pattern rule = some .foreign := rfl

theorem unstitchedReason_singleSheet (t : Nat) (disordered : Bool) (pattern : Pattern) (rule : DisorderRule) :
    unstitchedReason 1 t false disordered pattern rule = some .singleSheet := rfl

theorem unstitchedReason_patternNone {m : Nat} (hm : m ≠ 1) (t : Nat) (disordered : Bool) (rule : DisorderRule) :
    unstitchedReason m t false disordered .none rule = some .patternNone := by
  simp [unstitchedReason, hm]

theorem unstitchedReason_disordered {m : Nat} (hm : m ≠ 1) (t : Nat) {pattern : Pattern} (hp : pattern ≠ .none) :
    unstitchedReason m t false true pattern .leave = some .disordered := by
  simp [unstitchedReason, hm, hp]

/-- R81: a set to which no other reason applies is held to the capacity of the carriage. -/
theorem unstitchedReason_of_fits {m : Nat} (hm : m ≠ 1) (t : Nat) {disordered : Bool} {pattern : Pattern} {rule : DisorderRule}
    (hp : pattern ≠ .none) (hd : disordered = false ∨ rule = .stitch) :
    unstitchedReason m t false disordered pattern rule = if 50 < m ∨ 5500 < t then some .overCapacity else none := by
  rcases hd with rfl | rfl <;> simp [unstitchedReason, hm, hp]

/-! ## The plan -/

theorem stitchPlan_of_reason {m t : Nat} {foreign disordered : Bool} {pattern : Pattern} {rule : DisorderRule} {r : Reason}
    (h : unstitchedReason m t foreign disordered pattern rule = some r) :
    stitchPlan m t foreign disordered pattern rule = { stitches := 0, h := 0, clinch := 0, wire := 0, reason := some r } := by
  simp [stitchPlan, h]

theorem stitchPlan_of_stitched {m t : Nat} {foreign disordered : Bool} {pattern : Pattern} {rule : DisorderRule}
    (h : unstitchedReason m t foreign disordered pattern rule = none) :
    stitchPlan m t foreign disordered pattern rule =
      { stitches := patternStitches pattern, h := legLength t, clinch := clinchClass t
        wire := patternStitches pattern * stitchWire (legLength t), reason := none } := by
  simp [stitchPlan, h]

theorem patternStitches_of_ne_none {pattern : Pattern} (hp : pattern ≠ .none) :
    patternStitches pattern = if pattern = .edge2 then 2 else 1 := by
  cases pattern with
  | none => exact absurd rfl hp
  | corner => rfl
  | edge2 => rfl

/-! ## The leg length (R82) -/

theorem legLength_ge (t : Nat) : 8 ≤ legLength t := by
  unfold legLength clamp
  omega

theorem legLength_le (t : Nat) : legLength t ≤ 16 := by
  unfold legLength clamp
  omega

/-- R82: a leg length that was not raised to 8 is no longer than the rounded quotient. -/
theorem legLength_tight {t : Nat} (h : 8 < legLength t) : 500 * (legLength t - 1) < t + 2500 := by
  unfold legLength clamp at *
  omega

/-- R82: within the capacity of 5500 um no leg length is lowered to 16 below the rounded quotient. -/
theorem legLength_covers {t : Nat} (h : t ≤ 5500) : t + 2500 ≤ 500 * legLength t := by
  unfold legLength clamp
  omega

/-- Settles O55: the reasons in the order of R81, then the parts of the plan one by one. -/
theorem stitchPlansFollowTheRules : Obligations.StitchPlansFollowTheRules := by
  intro m t foreign disordered pattern rule plan unstitched fits
  refine ⟨?foreign, ?singleSheet, ?patternNone, ?disordered, ?overCapacity, ?stitched⟩
  case foreign =>
    rintro rfl
    exact stitchPlan_of_reason (unstitchedReason_foreign ..)
  case singleSheet =>
    rintro rfl rfl
    exact stitchPlan_of_reason (unstitchedReason_singleSheet ..)
  case patternNone =>
    rintro rfl hm rfl
    exact stitchPlan_of_reason (unstitchedReason_patternNone hm ..)
  case disordered =>
    rintro rfl hm hp rfl rfl
    exact stitchPlan_of_reason (unstitchedReason_disordered hm t hp)
  case overCapacity =>
    rintro ⟨rfl, hm, hp, hd⟩ beyond
    exact stitchPlan_of_reason ((unstitchedReason_of_fits hm t hp hd).trans (if_pos beyond))
  case stitched =>
    rintro ⟨rfl, hm, hp, hd⟩ hm50 ht
    have within : ¬ (50 < m ∨ 5500 < t) := by omega
    have stitched : plan = _ := stitchPlan_of_stitched ((unstitchedReason_of_fits hm t hp hd).trans (if_neg within))
    rw [stitched]
    exact ⟨rfl, patternStitches_of_ne_none hp, legLength_ge t, legLength_le t, legLength_tight, legLength_covers ht, rfl, rfl⟩

end Sys2Proof.Machine
end

section
/-! IDENTIFY (R160). -/

namespace Sys2Proof.Machine

/-- R145: the table has `yes` for IDENTIFY in every column. -/
theorem Mode.accepts_identify (m : Mode) : m ∈ acceptingModes .identify := by
  cases m <;> decide

/-- R160: the identity passes the checks of R156 in every mode and leaves the part as it is. -/
theorem Part.request_identify (p : Part) (l : Link) :
    p.request l .identify [] = p.accept .ok (.identity 0x4F50 4820 1 48 20) :=
  Part.request_of_checked l (Mode.accepts_identify p.ctl.mode) rfl

/-- Settles O2: IDENTIFY passes the checks of R156 in every mode, and its act leaves a free link's settled part as it was. -/
theorem identifyAnswersTheIdentity : Obligations.IdentifyAnswersTheIdentity := by
  intro s tag hfree
  have acts : s.part.request s.link .identify [] = _ := s.part.request_identify s.link
  have answers : s.requestArrives .identify tag [] = _ :=
    State.request_quiet hfree tag (Nat.zero_le _) s.part _ _ hfree.settled acts
  exact congrArg Host.Outcome.next answers

end Sys2Proof.Machine
end

section
/-! What every act of the part can do to the values that the invariants of the sheet account, of the modes and of the ranges
speak of: it makes a chain of the changes listed once in `Vitals.Change`. -/

namespace Sys2Proof.Machine

/-! ## The values and their changes -/

/-- The values that the invariants of the sheet account, of the modes and of the ranges speak of. -/
structure Vitals where
  entries        : Count
  account        : Account
  purgeCount     : Nat
  mode           : Mode
  parkPending    : Bool
  idleTime       : Nat
  idleTimer      : Option Nat
  wakingDeadline : Option Nat
  resumeFlag     : Bool
  stock          : Vector StockEntry Config.numStocks
  wire           : Nat
  later          : Nat

def Part.vitals (p : Part) : Vitals :=
  { entries := p.path.entryCount, account := p.path.account, purgeCount := p.path.purgeCount, mode := p.ctl.mode
    parkPending := p.ctl.parkPending, idleTime := p.ctl.idleTime, idleTimer := p.ctl.idleTimer
    wakingDeadline := p.ctl.wakingDeadline, resumeFlag := p.ctl.resumeFlag, stock := p.stock, wire := p.carriage.wire
    later := p.faults.later }

/-- R56: the sum of the seven counts of the places a sheet can be in. -/
def Account.held (a : Account) : Count :=
  a.inFlight + a.inBins + a.inReturn + a.placed + a.purged + a.lost + a.removed

/-- R141, R162: an idle time that can be stored. -/
def IdleTimeOk (n : Nat) : Prop := n = 0 ∨ (30 ≤ n ∧ n ≤ 3600)

/-- R75: a stock entry whose caliper is in range where it is defined. -/
def StockEntry.Ok (e : StockEntry) : Prop := e.defined = true → 50 ≤ e.caliper ∧ e.caliper ≤ 400

/-- The changes of the values that an act can make, one at a time. -/
inductive Vitals.Change : Vitals → Vitals → Prop where
  /-- R56: sheets move from one place to another. -/
  | move {v : Vitals} {a : Account} : a.entered = v.account.entered → a.held = v.account.held →
      Change v { v with account := a }
  /-- R40, R46, R49: a sheet enters and is in flight or lost. -/
  | sheet {v : Vitals} {a : Account} : a.entered = v.account.entered + 1 → a.held = v.account.held + 1 →
      Change v { v with entries := v.entries + 1, account := a }
  | purgeCount {v : Vitals} {n : Nat} : n ≤ 65535 → Change v { v with purgeCount := n }
  | stock {v : Vitals} (c : Nat) (hc : c < Config.numStocks) {e : StockEntry} : e.Ok →
      Change v { v with stock := v.stock.set c e }
  | wire {v : Vitals} {w : Nat} : w ≤ v.wire ∨ w ≤ wireLimit → Change v { v with wire := w }
  | idleTime {v : Vitals} {n : Nat} : IdleTimeOk n → Change v { v with idleTime := n }
  | later {v : Vitals} {n : Nat} : n ≤ 255 → Change v { v with later := n }
  | idleTimer {v : Vitals} {t : Option Nat} : v.mode = .automatic → Change v { v with idleTimer := t }
  | parkPending {v : Vitals} {b : Bool} : (b = true → v.mode = .automatic ∨ v.mode = .waking) →
      Change v { v with parkPending := b }
  | resumeFlag {v : Vitals} {b : Bool} : (b = true → v.mode = .service) → Change v { v with resumeFlag := b }
  /-- R142. -/
  | wake {v : Vitals} {t : Nat} : v.mode = .parked → Change v { v with mode := .waking, wakingDeadline := some t }
  /-- R142: TRANSPORT_READY. -/
  | ready {v : Vitals} : v.mode = .waking → Change v { v with mode := .automatic, wakingDeadline := none }
  /-- R140, R141. -/
  | park {v : Vitals} : v.mode = .automatic → Change v { v with mode := .parked, parkPending := false, idleTimer := none }
  /-- R135. -/
  | started {v : Vitals} : v.mode = .starting → Change v { v with mode := .automatic }
  /-- R139. -/
  | resumed {v : Vitals} : v.mode = .service → Change v { v with mode := .automatic, resumeFlag := false }
  /-- R136. -/
  | service {v : Vitals} :
      Change v { v with mode := .service, parkPending := false, idleTimer := none, wakingDeadline := none }
  /-- R143. -/
  | halt {v : Vitals} :
      Change v { v with
        mode := .halted, parkPending := false, idleTimer := none, wakingDeadline := none, resumeFlag := false }
  /-- R144: a restart. -/
  | restart {v : Vitals} :
      Change v { v with
        entries := 0, account := {}, purgeCount := 0, mode := .starting, parkPending := false, idleTimer := none
        wakingDeadline := none, resumeFlag := false }
  /-- R134: power-on. -/
  | powerOn {v : Vitals} :
      Change v
        { entries := 0, account := {}, purgeCount := 0, mode := .starting, parkPending := false, idleTime := 600
          idleTimer := none, wakingDeadline := none, resumeFlag := false, stock := powerOnStock, wire := 0, later := 0 }

/-- `q` comes from `p` by a chain of the listed changes. -/
def Part.Evolves (p q : Part) : Prop := Relation.ReflTransGen Vitals.Change p.vitals q.vitals

theorem Part.Evolves.refl (p : Part) : p.Evolves p := Relation.ReflTransGen.refl

theorem Part.Evolves.trans {p q r : Part} (h : p.Evolves q) (k : q.Evolves r) : p.Evolves r := Relation.ReflTransGen.trans h k

/-- An update that leaves the values goes on with the chain. -/
theorem Part.Evolves.keep {p q r : Part} (h : p.Evolves q) (e : r.vitals = q.vitals) : p.Evolves r := by
  unfold Part.Evolves
  rw [e]
  exact h

/-- One change goes on with the chain. -/
theorem Part.Evolves.change {p q r : Part} (h : p.Evolves q) {v : Vitals} (c : Vitals.Change q.vitals v) (e : r.vitals = v) :
    p.Evolves r := by
  subst e
  exact Relation.ReflTransGen.tail h c

/-- Acts that each go on with the chain go on with it together. -/
theorem Part.Evolves.foldl {α : Type} {f : Part → α → Part} (hf : ∀ p q a, Part.Evolves p q → Part.Evolves p (f q a)) (as : List α)
    {p q : Part} (h : p.Evolves q) : p.Evolves (as.foldl f q) := by
  induction as generalizing q with
  | nil => exact h
  | cons a as ih => exact ih (hf p q a h)

/-! ## The sheet account -/

theorem Account.binsToReturn_held (a : Account) (m : Nat) : (a.binsToReturn m).held = a.held := by
  simp only [Account.held, Account.binsToReturn]; ring

theorem Account.returnToPlaced_held (a : Account) (m : Nat) : (a.returnToPlaced m).held = a.held := by
  simp only [Account.held, Account.returnToPlaced]; ring

theorem Account.binsToRemoved_held (a : Account) (m : Nat) : (a.binsToRemoved m).held = a.held := by
  simp only [Account.held, Account.binsToRemoved]; ring

theorem Account.returnToRemoved_held (a : Account) (m : Nat) : (a.returnToRemoved m).held = a.held := by
  simp only [Account.held, Account.returnToRemoved]; ring

theorem Account.flightToBins_held (a : Account) : a.flightToBins.held = a.held := by
  simp only [Account.held, Account.flightToBins]; ring

theorem Account.flightToPurged_held (a : Account) : a.flightToPurged.held = a.held := by
  simp only [Account.held, Account.flightToPurged]; ring

theorem Account.flightToLost_held (a : Account) (k : Nat) : (a.flightToLost k).held = a.held := by
  simp only [Account.held, Account.flightToLost]; ring

variable {p q : Part}

theorem Part.Evolves.modAccount (h : p.Evolves q) {f : Account → Account} (he : ∀ a, (f a).entered = a.entered)
    (hh : ∀ a, (f a).held = a.held) : p.Evolves (q.modAccount f) :=
  h.change (.move (he _) (hh _)) rfl

/-! ## Updates that leave the values -/

theorem Part.Evolves.raise (h : p.Evolves q) (n : Notice) : p.Evolves (q.raise n) := h.keep rfl
theorem Part.Evolves.reach (h : p.Evolves q) (t : Nat) : p.Evolves (q.reach t) := h.keep rfl
theorem Part.Evolves.modJob (h : p.Evolves q) (n : Nat) (f : Job → Job) : p.Evolves (q.modJob n f) := h.keep rfl
theorem Part.Evolves.dropJob (h : p.Evolves q) (n : Nat) : p.Evolves (q.dropJob n) := h.keep rfl
theorem Part.Evolves.setJobState (h : p.Evolves q) (n : Nat) (st : JobState) : p.Evolves (q.setJobState n st) := h.keep rfl
theorem Part.Evolves.releaseGate (h : p.Evolves q) : p.Evolves q.releaseGate := h.keep rfl
theorem Part.Evolves.modTrip (h : p.Evolves q) (f : Trip → Trip) : p.Evolves (q.modTrip f) := h.keep rfl
theorem Part.Evolves.appendEject (h : p.Evolves q) (b : Nat) : p.Evolves (q.appendEject b) := h.keep rfl
theorem Part.Evolves.leaveStitch (h : p.Evolves q) (b : Nat) : p.Evolves (q.leaveStitch b) := h.keep rfl
theorem Part.Evolves.leaveEject (h : p.Evolves q) (b : Nat) : p.Evolves (q.leaveEject b) := h.keep rfl
theorem Part.Evolves.insertTail (h : p.Evolves q) (b : Nat) : p.Evolves (q.insertTail b) := h.keep rfl
theorem Part.Evolves.insertHead (h : p.Evolves q) (b : Nat) : p.Evolves (q.insertHead b) := h.keep rfl
theorem Part.Evolves.startHoming (h : p.Evolves q) : p.Evolves q.startHoming := h.keep rfl
theorem Part.Evolves.stopDrive (h : p.Evolves q) : p.Evolves q.stopDrive := h.keep rfl
theorem Part.Evolves.carriageHalt (h : p.Evolves q) : p.Evolves q.carriageHalt := h.keep rfl
theorem Part.Evolves.conveyorHalt (h : p.Evolves q) : p.Evolves q.conveyorHalt := h.keep rfl
theorem Part.Evolves.startProving (h : p.Evolves q) : p.Evolves q.startProving := h.keep rfl
theorem Part.Evolves.interruptCycle (h : p.Evolves q) (b : Nat) : p.Evolves (q.interruptCycle b) := h.keep rfl
theorem Part.Evolves.drainCurrent (h : p.Evolves q) (n : Nat) : p.Evolves (q.drainCurrent n) := h.keep rfl
theorem Part.Evolves.forgetSet (h : p.Evolves q) (b : Nat) : p.Evolves (q.forgetSet b) := h.keep rfl

theorem Part.Evolves.setBin (h : p.Evolves q) (b : Nat) (r : Bin) : p.Evolves (q.setBin b r) := h.keep (by simp [Part.vitals])
theorem Part.Evolves.setBinState (h : p.Evolves q) (b : Nat) (st : BinState) : p.Evolves (q.setBinState b st) := h.setBin b _
theorem Part.Evolves.modSet (h : p.Evolves q) (b : Nat) (f : SetRecord → SetRecord) : p.Evolves (q.modSet b f) := h.setBin b _

theorem Part.Evolves.modJobOf (h : p.Evolves q) (n : Option Nat) (f : Job → Job) : p.Evolves (q.modJobOf n f) :=
  h.keep (by simp [Part.vitals])

theorem Part.Evolves.tallyVoided (h : p.Evolves q) (b : Nat) : p.Evolves (q.tallyVoided b) := h.modJobOf _ _

theorem Part.latch_later (p : Part) (c : Condition) : (p.latch c).faults.later = p.faults.later := by
  unfold Part.latch
  split
  · rfl
  · dsimp only
    split <;> rfl

theorem Part.Evolves.latch (h : p.Evolves q) (c : Condition) : p.Evolves (q.latch c) :=
  h.keep (by simp [Part.vitals, Part.latch_later])

theorem Part.Evolves.latchIf (h : p.Evolves q) (b : Bool) (c : Condition) : p.Evolves (q.latchIf b c) := by
  unfold Part.latchIf
  split
  · exact h.latch c
  · exact h

theorem Part.Evolves.latchWireOut (h : p.Evolves q) (b : Bool) : p.Evolves (q.latchWireOut b) := h.latchIf _ _

theorem Part.Evolves.clearCondition (h : p.Evolves q) (c : Condition) : p.Evolves (q.clearCondition c) := by
  unfold Part.clearCondition
  split
  · exact h
  · exact h.keep rfl

theorem Part.Evolves.drawerAct (h : p.Evolves q) (r : DrawerMap × List DrawerChange) : p.Evolves (q.drawerAct r) :=
  h.keep (by simp [Part.vitals])

theorem Part.Evolves.stopConveyor (h : p.Evolves q) : p.Evolves q.stopConveyor := h.keep (by simp [Part.vitals])

theorem Part.Evolves.reserve (h : p.Evolves q) (b c : Nat) : p.Evolves (q.reserve b c) := h.modSet _ _

theorem Part.Evolves.recordArrival (h : p.Evolves q) (t : Trip) : p.Evolves (q.recordArrival t) :=
  h.keep (by simp [Part.vitals])

theorem Part.Evolves.carriageService (h : p.Evolves q) : p.Evolves q.carriageService := by
  unfold Part.carriageService
  split
  · exact h.keep rfl
  · exact h

/-! ## Modes and timers -/

theorem Part.Evolves.wake (h : p.Evolves q) : p.Evolves q.wake := by
  unfold Part.wake
  split
  · next hm => exact h.change (.wake hm) rfl
  · exact h

theorem Part.Evolves.park (h : p.Evolves q) (hm : q.ctl.mode = .automatic) (c : ModeCause) : p.Evolves (q.park c) :=
  h.change (.park hm) rfl

theorem Part.Evolves.startIdleTimer (h : p.Evolves q) (hm : q.ctl.mode = .automatic) : p.Evolves q.startIdleTimer :=
  h.change (.idleTimer hm) rfl

theorem Part.Evolves.examineIdle (h : p.Evolves q) : p.Evolves q.examineIdle := by
  unfold Part.examineIdle
  split
  · next hm =>
    split
    · split
      · exact h.park hm _
      · split
        · exact h.startIdleTimer hm
        · exact h
    · exact h.change (.idleTimer hm) rfl
  · exact h

/-! ## The conveyor and the carriage -/

theorem Part.Evolves.startEjector (h : p.Evolves q) : p.Evolves q.startEjector := by
  unfold Part.startEjector
  split
  · exact h
  · next t _ =>
    have moved : p.Evolves (q.modAccount fun a => a.binsToReturn t.sheets) :=
      h.modAccount (fun _ => rfl) fun a => a.binsToReturn_held t.sheets
    exact moved.keep rfl

theorem Part.Evolves.slipStep (h : p.Evolves q) : p.Evolves q.slipStep := by
  unfold Part.slipStep
  split
  · exact h
  · split
    · split
      · exact ((h.modTrip _).latch _).startEjector
      · exact h.keep rfl
    · exact (h.modTrip _).startEjector

theorem Part.Evolves.fixPlace (h : p.Evolves q) (b : Nat) : p.Evolves (q.fixPlace b).1 := by
  unfold Part.fixPlace
  split
  · exact h
  · exact h.drawerAct _

theorem Part.Evolves.choose (h : p.Evolves q) (b : Nat) : p.Evolves (q.choose b) := by
  unfold Part.choose
  extract_lets src r
  have hr : p.Evolves r := h.keep rfl
  have placed : p.Evolves _ := (((hr.fixPlace b).keep (r := { (r.fixPlace b).1 with
    conv := { (r.fixPlace b).1.conv with trip := some ((r.fixPlace b).1.tripOf b (r.fixPlace b).2) }
    drawers := (r.fixPlace b).1.drawers.setAwaited (r.fixPlace b).2 true }) rfl).setBinState b .ejecting)
  split
  next x place e =>
  rw [e] at placed
  dsimp only at placed ⊢
  split
  · exact placed.startEjector
  · exact placed.slipStep

theorem Part.Evolves.choiceCheck (h : p.Evolves q) : p.Evolves q.choiceCheck := by
  unfold Part.choiceCheck
  split
  · extract_lets before
    split
    next es c _ =>
    extract_lets r1 r2
    have h2 : p.Evolves r2 := (h.keep (r := r1) rfl).latchIf _ _
    split
    · exact h2.choose _
    · exact h2
  · exact h

theorem Part.Evolves.joinEject (h : p.Evolves q) (b : Nat) : p.Evolves (q.joinEject b) := (h.appendEject b).wake.choiceCheck

/-- R96: wire remaining falls, or is set to a length that can be stored. -/
theorem Part.Evolves.setWire (h : p.Evolves q) {w : Nat} (hw : w ≤ q.carriage.wire ∨ w ≤ wireLimit) : p.Evolves (q.setWire w) :=
  ((h.change (r := { q with carriage := { q.carriage with wire := w } }) (.wire hw) rfl).latchIf _ _).latchWireOut _

theorem Part.Evolves.startCycle (h : p.Evolves q) (b : Nat) : p.Evolves (q.startCycle b) := by
  unfold Part.startCycle
  extract_lets need r1 src r2 r3 src' r4 before
  split
  · have h2 : p.Evolves r2 := (h.modSet b _).keep rfl
    exact h2.setWire (.inl (Nat.sub_le _ _))
  · have h4 : p.Evolves r4 := (h.setBinState b _).keep rfl
    exact (h4.insertHead b).latchWireOut _

theorem Part.Evolves.take (h : p.Evolves q) (b : Nat) : p.Evolves (q.take b) := by
  unfold Part.take
  extract_lets r1 src r2
  have h2 : p.Evolves r2 := ((h.leaveStitch b).setBinState b _).keep rfl
  split
  · exact h2.startCycle b
  · exact h2.keep rfl

theorem Part.Evolves.replan (h : p.Evolves q) (b : Nat) : p.Evolves (q.replan b) :=
  (((h.leaveStitch b).modSet b _).setBinState b _).joinEject b

theorem Part.Evolves.takeCheckN (n : Nat) (h : p.Evolves q) : p.Evolves (Part.takeCheckN n q) := by
  induction n generalizing q with
  | zero => exact h
  | succ n ih =>
    unfold Part.takeCheckN
    split
    · split
      · exact ih (h.take _)
      · split
        · exact ih (h.replan _)
        · exact h
    · exact h

theorem Part.Evolves.takeCheck (h : p.Evolves q) : p.Evolves q.takeCheck := h.takeCheckN _

theorem Part.Evolves.joinStitch (h : p.Evolves q) (b : Nat) : p.Evolves (q.joinStitch b) :=
  ((h.insertTail b).latchWireOut _).wake.takeCheck

theorem Part.Evolves.handOn (h : p.Evolves q) (b : Nat) : p.Evolves (q.handOn b) := by
  unfold Part.handOn
  extract_lets src r
  exact (((h.keep (r := r) rfl).setBinState b _).joinEject b).takeCheck

/-! ## Jobs and bins -/

theorem Part.Evolves.assignBins (n : Nat) (bs : List Nat) (k : Nat) (h : p.Evolves q) : p.Evolves (q.assignBins n k bs) := by
  induction bs generalizing q k with
  | nil => exact h
  | cons b bs ih => exact ih _ (h.setBin b _)

theorem Part.Evolves.grant (h : p.Evolves q) (j : Job) (rest : List Nat) : p.Evolves (q.grant j rest) := by
  unfold Part.grant
  extract_lets bins src r1 r2
  exact (Part.Evolves.assignBins _ _ _ (h.keep (r := r2) rfl)).raise _

theorem Part.Evolves.grantCheckN (n : Nat) (h : p.Evolves q) : p.Evolves (Part.grantCheckN n q) := by
  induction n generalizing q with
  | zero => exact h
  | succ n ih =>
    unfold Part.grantCheckN
    split
    · exact h
    · split
      · exact h
      · split
        · exact ih (h.grant _ _)
        · exact h

theorem Part.Evolves.grantCheck (h : p.Evolves q) : p.Evolves q.grantCheck := h.grantCheckN _

theorem Part.Evolves.testEnd (h : p.Evolves q) (n : Nat) : p.Evolves (q.testEnd n) := h.keep (by simp [Part.vitals])

theorem Part.Evolves.freeBin (h : p.Evolves q) (b : Nat) (f : Tallies → Tallies) : p.Evolves (q.freeBin b f) :=
  h.keep (by simp [Part.vitals])

theorem Part.Evolves.releaseBin (h : p.Evolves q) (b : Nat) : p.Evolves (q.releaseBin b) := h.freeBin b _
theorem Part.Evolves.freeEmpty (h : p.Evolves q) (b : Nat) : p.Evolves (q.freeEmpty b) := h.freeBin b _

theorem Part.Evolves.completeBin (h : p.Evolves q) (pa : Pattern) (di : DisorderRule) (b : Nat) :
    p.Evolves (q.completeBin pa di b) := by
  unfold Part.completeBin
  dsimp only
  split
  · exact h.freeEmpty b
  · split
    · exact ((h.modSet b _).setBinState b _).joinEject b
    · exact ((h.modSet b _).setBinState b _).joinStitch b

theorem Part.Evolves.closeTakesEffect (h : p.Evolves q) (n : Nat) : p.Evolves (q.closeTakesEffect n) := by
  unfold Part.closeTakesEffect
  split
  · exact h
  · exact (Part.Evolves.foldl (fun _ _ b hb => hb.completeBin _ _ b) _ (h.setJobState n _)).testEnd n

theorem Part.Evolves.runDeparted (h : p.Evolves q) (n : Nat) : p.Evolves (q.runDeparted n) := by
  unfold Part.runDeparted
  split
  · exact h
  · split
    · split
      · exact h
      · exact h.closeTakesEffect n
    · exact h.testEnd n
    · exact h

theorem Part.Evolves.runLeftSlot (h : p.Evolves q) (n : Nat) : p.Evolves (q.runLeftSlot n) := h.keep (by simp [Part.vitals])

theorem Part.Evolves.finishVoid (h : p.Evolves q) (b : Nat) : p.Evolves (q.finishVoid b) :=
  ((h.modSet b _).setBinState b _).joinEject b

theorem Part.Evolves.voidBin (h : p.Evolves q) (b : Nat) : p.Evolves (q.voidBin b) := by
  unfold Part.voidBin
  dsimp only
  split
  · split
    · exact h.modSet b _
    · exact h.freeEmpty b
  · split
    · exact (h.tallyVoided b).modSet b _
    · exact (h.tallyVoided b).finishVoid b
  · exact ((h.leaveStitch b).tallyVoided b).finishVoid b
  all_goals exact h

theorem Part.Evolves.appendSheet (h : p.Evolves q) (b page c : Nat) : p.Evolves (q.appendSheet b page c) := by
  unfold Part.appendSheet
  extract_lets first r1 r2 r3
  have h2 : p.Evolves r2 := by
    unfold r2
    split
    · exact (h.modSet b _).setBinState b _
    · exact h.modSet b _
  have h3 : p.Evolves r3 := by
    unfold r3
    split
    · exact h2.tallyVoided b
    · exact h2
  split
  · split
    · exact h3.finishVoid b
    · exact h3
  · exact h2

theorem Part.Evolves.releaseReservation (h : p.Evolves q) (b c : Nat) : p.Evolves (q.releaseReservation b c) := by
  unfold Part.releaseReservation
  extract_lets r s
  have hr : p.Evolves r := h.modSet b _
  split
  · split
    · exact hr.freeEmpty b
    · exact hr.finishVoid b
  · exact hr

/-! ## Runs -/

theorem Part.Evolves.promote (h : p.Evolves q) (r : Run) : p.Evolves (q.promote r) := by
  unfold Part.promote
  extract_lets c src x
  exact (h.keep (r := x) rfl).wake

theorem Part.Evolves.promotePending (h : p.Evolves q) : p.Evolves q.promotePending := by
  unfold Part.promotePending
  split
  · exact h
  · refine Part.Evolves.promote ?_ _
    exact h.keep rfl

theorem Part.Evolves.completeAll (h : p.Evolves q) (rs : List Run) : p.Evolves (q.completeAll rs) :=
  Part.Evolves.foldl (fun _ _ r hr => hr.runDeparted r.job) rs
    (Part.Evolves.foldl (f := fun p r => p.raise r.done) (fun _ _ r hr => hr.raise r.done) rs h)

theorem Part.Evolves.completeSettled (h : p.Evolves q) : p.Evolves q.completeSettled := by
  unfold Part.completeSettled
  refine Part.Evolves.completeAll ?_ _
  exact h.keep rfl

theorem Part.Evolves.leaveSlot (h : p.Evolves q) (r : Run) : p.Evolves (q.leaveSlot r) := by
  unfold Part.leaveSlot
  extract_lets src x src' y
  have hx : p.Evolves x := h.keep rfl
  have hy : p.Evolves y := by
    unfold y
    split
    · exact hx.keep rfl
    · exact hx.completeAll _
  exact (hy.runLeftSlot _).promotePending

theorem Part.Evolves.assigned (h : p.Evolves q) : p.Evolves q.assigned := by
  unfold Part.assigned
  split
  · exact h
  · dsimp only
    split
    · exact h.leaveSlot _
    · exact h.keep rfl

theorem Part.Evolves.reportSettled (h : p.Evolves q) (ref : Option RunRef) (f : RunRef → Run → Run) :
    p.Evolves (q.reportSettled ref f) := by
  unfold Part.reportSettled
  split
  · exact h
  · exact Part.Evolves.completeSettled (h.keep rfl)

theorem Part.Evolves.withdrawPendingOf (h : p.Evolves q) (n : Nat) : p.Evolves (q.withdrawPendingOf n).1 :=
  h.keep (by simp [Part.vitals])

/-! ## The sort path -/

/-- R40, R46, R49: the sheet that has entered is counted at one place. -/
theorem Part.Evolves.sheet {r x : Part} (h : p.Evolves q) (e : r.vitals = q.enterSheet.vitals) {a : Account}
    (he : a.entered = r.path.account.entered) (hh : a.held = r.path.account.held + 1)
    (ex : x.vitals = { r.vitals with account := a }) : p.Evolves x := by
  have entered : r.path.account = { q.path.account with entered := q.path.account.entered + 1 } := congrArg Vitals.account e
  refine h.change (.sheet (a := a) ?_ ?_) (ex.trans ?_)
  · rw [he, entered]; rfl
  · rw [hh, entered]; rfl
  · rw [e]; rfl

/-- R46: the sheet that has entered is ticketed. -/
theorem Part.Evolves.recordTicket {r : Part} (h : p.Evolves q) (e : r.vitals = q.enterSheet.vitals) (d : Decision) :
    p.Evolves (r.recordTicket d) := by
  unfold Part.recordTicket
  extract_lets t x src y
  have hy : p.Evolves y := by
    refine h.sheet e (a := { r.path.account with inFlight := r.path.account.inFlight + 1 }) rfl ?_ rfl
    simp only [Account.held]
    ring
  split
  · exact hy.assigned
  · exact hy

/-- R49: the sheet that has entered is lost. -/
theorem Part.Evolves.stopSheet {r : Part} (h : p.Evolves q) (e : r.vitals = q.enterSheet.vitals) : p.Evolves r.stopSheet := by
  refine h.sheet e (a := { r.path.account with lost := r.path.account.lost + 1 }) rfl ?_ rfl
  simp only [Account.held]
  ring

theorem Part.Evolves.deposit (h : p.Evolves q) (b : Nat) (t : Ticket) (rest : List Ticket) : p.Evolves (q.deposit b t rest) := by
  unfold Part.deposit
  extract_lets src x y z
  have hy : p.Evolves y := (h.keep (r := x) rfl).modAccount (fun _ => rfl) Account.flightToBins_held
  exact (hy.appendSheet _ _ _).reportSettled _ _

theorem Part.Evolves.purgeSheet (h : p.Evolves q) (t : Ticket) (rest : List Ticket) : p.Evolves (q.purgeSheet t rest) := by
  unfold Part.purgeSheet
  extract_lets src x y
  have hy : p.Evolves y := (h.keep (r := x) rfl).modAccount (fun _ => rfl) Account.flightToPurged_held
  exact hy.reportSettled _ _

theorem Part.Evolves.countPurge (h : p.Evolves q) : p.Evolves q.countPurge := h.change (.purgeCount (Nat.min_le_left _ _)) rfl

theorem Part.Evolves.loseReservation (h : p.Evolves q) (t : Ticket) : p.Evolves (q.loseReservation t) := by
  unfold Part.loseReservation
  split
  · exact h.releaseReservation _ _
  · exact h

theorem Part.Evolves.reportLost (h : p.Evolves q) (t : Ticket) : p.Evolves (q.reportLost t) := h.keep (by simp [Part.vitals])

theorem Part.Evolves.loseTickets (h : p.Evolves q) (m : Mode) : p.Evolves (q.loseTickets m) := by
  unfold Part.loseTickets
  extract_lets ts p1 src p2 p3 p4 p5
  have h1 : p.Evolves p1 := by
    unfold p1
    split
    · exact h.raise _
    · exact h
  have h3 : p.Evolves p3 :=
    (h1.keep (r := p2) rfl).modAccount (f := fun a => a.flightToLost ts.length) (fun _ => rfl) fun a => a.flightToLost_held _
  have h4 : p.Evolves p4 := Part.Evolves.foldl (fun _ _ t ht => ht.loseReservation t) ts h3
  have h5 : p.Evolves p5 := (Part.Evolves.foldl (fun _ _ t ht => ht.reportLost t) ts h4).completeSettled
  exact h5.keep rfl

/-! ## Service, starts and faults -/

theorem Part.Evolves.enterService (h : p.Evolves q) (c : ModeCause) (k : Option FaultKind) : p.Evolves (q.enterService c k) := by
  unfold Part.enterService
  extract_lets before src x
  have hx : p.Evolves (x.changeMode .service c k) := h.change .service rfl
  exact ((hx.loseTickets _).carriageService).stopConveyor

theorem Part.Evolves.startUp (h : p.Evolves q) (c : ModeCause) : p.Evolves (q.startUp c) := by
  by_cases hc : c = .powerOn
  · exact h.change .powerOn (by simp [Part.startUp, Part.vitals, hc])
  · exact h.change .restart (by simp [Part.startUp, Part.vitals, hc])

theorem Part.Evolves.halt (h : p.Evolves q) (k : FaultKind) : p.Evolves (q.halt k) := by
  unfold Part.halt
  extract_lets src x
  have hx : p.Evolves (x.changeMode .halted .fatalFault (some k)) := h.change .halt rfl
  exact (hx.releaseGate.carriageHalt).conveyorHalt

/-- R147: a fault leaves the count of later faults, or raises it within a byte. -/
theorem FaultBlock.enter_later (f : FaultBlock) (e : FaultEntry) : (f.enter e).later = f.later ∨ (f.enter e).later ≤ 255 := by
  unfold FaultBlock.enter
  split
  · exact .inl rfl
  · exact .inl rfl
  · exact .inr (Nat.min_le_left _ _)

theorem Part.Evolves.recordFault (h : p.Evolves q) (e : FaultEntry) : p.Evolves (q.recordFault e) := by
  have hv : (q.recordFault e).vitals = { q.vitals with later := (q.faults.enter e).later } := by
    obtain ⟨hf, hc, -⟩ := q.recordFault_spec e
    simp [Part.vitals, hf, hc]
  rcases q.faults.enter_later e with hl | hl
  · exact h.keep (by rw [hv, hl]; rfl)
  · exact h.change (.later hl) hv

theorem Part.Evolves.raiseFault (h : p.Evolves q) (k : FaultKind) (loc : Location) (job : Option Nat) :
    p.Evolves (q.raiseFault k loc job) := by
  unfold Part.raiseFault
  extract_lets mode x src
  have hx : p.Evolves x := h.recordFault _
  split
  · split
    · exact hx.halt k
    · exact hx.startUp _
  · cases mode with
    | automatic => exact hx.enterService _ _
    | parked => exact hx.enterService _ _
    | waking => exact hx.enterService _ _
    | service => exact hx.change (.resumeFlag (b := false) (by simp)) rfl
    | starting => exact hx
    | halted => exact hx

theorem Part.Evolves.pathFault (h : p.Evolves q) (k : FaultKind) (loc : Location) (job : Option Nat) :
    p.Evolves (q.pathFault k loc job) := by
  unfold Part.pathFault
  refine Part.Evolves.raiseFault ?_ k loc job
  exact h.keep rfl

theorem Part.Evolves.stopAtEntry {r : Part} (h : p.Evolves q) (e : r.vitals = q.enterSheet.vitals) (k : FaultKind)
    (job : Option Nat) : p.Evolves (r.stopAtEntry k job) :=
  (h.stopSheet e).pathFault _ _ _

theorem Part.Evolves.carriageLost (h : p.Evolves q) (loc : Location) : p.Evolves (q.carriageLost loc) :=
  h.stopDrive.raiseFault _ _ _

/-- R135. -/
theorem Part.Evolves.endStarting (h : p.Evolves q) (hm : q.ctl.mode = .starting) : p.Evolves q.endStarting := by
  unfold Part.endStarting
  extract_lets x y z w
  have hx : p.Evolves x := by
    unfold x
    split
    · exact h.enterService _ _
    · exact h.change (.started hm) rfl
  have hy : p.Evolves y := Part.Evolves.foldl (fun _ _ b hb => hb.appendEject b) _ hx
  exact ((hy.latchIf _ _).latchIf _ _).takeCheck.choiceCheck

/-- R139. -/
theorem Part.Evolves.completeResume (h : p.Evolves q) (hm : q.ctl.mode = .service) : p.Evolves q.completeResume := by
  unfold Part.completeResume
  extract_lets src x
  have hx : p.Evolves (x.changeMode .automatic .resumed none) := h.change (.resumed hm) rfl
  exact hx.takeCheck.choiceCheck

theorem Part.Evolves.homed (h : p.Evolves q) : p.Evolves q.homed := by
  unfold Part.homed
  extract_lets src x
  have hx : p.Evolves x := h.keep rfl
  split
  · next hm => exact hx.endStarting hm
  · next hm =>
    split
    · exact hx.completeResume hm
    · exact hx
  · exact hx.takeCheck
  all_goals exact hx

theorem Part.Evolves.abandonResume (h : p.Evolves q) : p.Evolves q.abandonResume := by
  unfold Part.abandonResume
  extract_lets src x y
  have hx : p.Evolves x := h.change (.resumeFlag (b := false) (by simp)) rfl
  have hy : p.Evolves y := by
    unfold y
    split
    · exact hx.stopDrive
    · exact hx
  exact hy.stopConveyor

theorem Part.Evolves.intrude (h : p.Evolves q) (c : ModeCause) : p.Evolves (q.intrude c) := by
  unfold Part.intrude
  split
  · exact h.enterService _ _
  · exact h.enterService _ _
  · exact h.enterService _ _
  · exact h.abandonResume
  all_goals exact h

/-! ## The end of a trip and the acts of RESUME -/

theorem Part.Evolves.endTrip (h : p.Evolves q) (t : Trip) : p.Evolves (q.endTrip t) := by
  unfold Part.endTrip
  extract_lets src x y
  have hx : p.Evolves x := h.keep rfl
  have hy : p.Evolves y := by
    unfold y
    split
    · exact hx.testEnd _
    · exact hx
  exact hy.choiceCheck

theorem Part.Evolves.deliver (h : p.Evolves q) (t : Trip) : p.Evolves (q.deliver t) := by
  unfold Part.deliver
  extract_lets x y z
  have hy : p.Evolves y := (h.recordArrival t).modAccount (fun _ => rfl) fun a => a.returnToPlaced_held t.sheets
  exact ((hy.modJobOf _ _).raise _).endTrip t

theorem Part.Evolves.loseSet (h : p.Evolves q) (t : Trip) : p.Evolves (q.loseSet t) := by
  unfold Part.loseSet
  refine Part.Evolves.endTrip ?_ t
  exact h.keep rfl

theorem Part.Evolves.arrivalMismatch (h : p.Evolves q) (loc : Location) (job : Option Nat) : p.Evolves (q.arrivalMismatch loc job) :=
  h.stopConveyor.raiseFault _ _ _

theorem Part.Evolves.arrive (h : p.Evolves q) (place : Place) : p.Evolves (q.arrive place) := by
  have idle : p.Evolves
      (if q.ctl.mode = .service then q else q.arrivalMismatch (placeLocation place) none) := by
    split
    · exact h
    · exact h.arrivalMismatch _ _
  unfold Part.arrive
  split
  · exact h
  · exact h
  all_goals
    split
    · split
      · exact h
      · split
        · split
          · exact h.deliver _
          · exact h.arrivalMismatch _ _
        · exact h.arrivalMismatch _ _
    · exact h.arrivalMismatch _ _
    · exact idle
    · exact h

theorem Part.Evolves.carryExpired (h : p.Evolves q) (t : Trip) : p.Evolves (q.carryExpired t) := by
  unfold Part.carryExpired
  split
  · refine Part.Evolves.loseSet ?_ t
    exact h.modAccount (fun _ => rfl) fun a => a.returnToRemoved_held t.sheets
  · exact h.stopConveyor.raiseFault _ _ _

theorem Part.Evolves.auditBin (h : p.Evolves q) (a : Audit) (b : Nat) : p.Evolves (q.auditBin a b).1 := by
  have removed {r : Part} (hr : p.Evolves r) (m : Nat) : p.Evolves (r.modAccount fun c => c.binsToRemoved m) :=
    hr.modAccount (fun _ => rfl) fun a => a.binsToRemoved_held m
  unfold Part.auditBin
  dsimp only
  split
  · exact ((removed h _).modSet b _).setBinState b _
  · exact (removed (h.forgetSet b) _).freeBin b _
  · exact (removed (h.forgetSet b) _).freeBin b _
  · exact (removed (h.forgetSet b) _).freeBin b _
  · exact (h.leaveEject b).releaseBin b
  · exact h.modSet b _
  · exact (h.setBin b _).joinEject b
  · exact h

theorem Part.Evolves.audit (h : p.Evolves q) : p.Evolves q.audit.1 := by
  have key : ∀ (bs : List Nat) (r : Part × Audit), p.Evolves r.1 →
      p.Evolves (bs.foldl (fun r b => r.1.auditBin r.2 b) r).1 := by
    intro bs
    induction bs with
    | nil => exact fun _ hr => hr
    | cons b bs ih => exact fun r hr => ih _ (hr.auditBin r.2 b)
  exact key _ (q, {}) h

theorem Part.Evolves.conveyorCheck (h : p.Evolves q) : p.Evolves q.conveyorCheck.1 := by
  unfold Part.conveyorCheck
  split
  · exact h
  · next t _ =>
    dsimp only
    split
    · split
      · exact (h.modTrip _).slipStep
      · have removed : p.Evolves (q.modAccount fun a => a.binsToRemoved t.sheets) :=
          h.modAccount (fun _ => rfl) fun a => a.binsToRemoved_held t.sheets
        exact (removed.releaseBin _).loseSet t
    · split
      · exact ((h.modTrip _).releaseBin _).startProving
      · exact h.startProving

theorem Part.Evolves.returnHeld (h : p.Evolves q) (b : Nat) : p.Evolves (q.returnHeld b) :=
  ((h.setBinState b _).insertHead b).latchWireOut _

theorem Part.Evolves.giveUp (h : p.Evolves q) (b : Nat) : p.Evolves (q.giveUp b) :=
  ((h.modSet b _).setBinState b _).joinEject b

theorem Part.Evolves.settleHeld (h : p.Evolves q) : p.Evolves q.settleHeld.1 := by
  unfold Part.settleHeld
  split
  · exact h
  · next x _ =>
    cases hc : x.cond with
    | jammed => exact (h.giveUp x.bin).keep rfl
    | interrupted => exact (h.returnHeld x.bin).keep rfl
    | taken =>
      dsimp only
      split
      · exact ((h.modSet x.bin _).returnHeld x.bin).keep rfl
      · exact (h.returnHeld x.bin).keep rfl

end Sys2Proof.Machine
end

section
/-! What every act of the part keeps of the run slots (R21). -/

namespace Sys2Proof.Machine

/-- R21: the state of each run follows its place. -/
structure RunCtl.Placed (r : RunCtl) : Prop where
  current   : ∀ q ∈ r.current, q.state = .current ∨ q.state = .draining
  waiting   : ∀ q ∈ r.pending, q.state = .pending
  finishing : ∀ q ∈ r.finishing, q.state = .finishing

/-- R21: the runs stand in their places, and none is PENDING without a CURRENT one. -/
structure RunCtl.Slotted (r : RunCtl) : Prop extends RunCtl.Placed r where
  pending : r.pending.isSome = true → r.current.isSome = true

theorem slotsOk_iff (s : State) : SlotsOk s ↔ s.part.runs.Slotted :=
  ⟨fun h => ⟨⟨h.current, h.waiting, h.finishing⟩, h.pending⟩, fun h => ⟨h.pending, h.current, h.waiting, h.finishing⟩⟩

/-- The runs are slotted: the invariant of R21 on a part. -/
def Part.Slotted (p : Part) : Prop := p.runs.Slotted

variable {p : Part}

theorem Part.Slotted.keep (h : p.Slotted) {q : Part} (e : q.runs = p.runs) : q.Slotted := by
  unfold Part.Slotted
  rw [e]
  exact h

/-- Acts that each keep the slots keep them together. -/
theorem Part.Slotted.foldl {α : Type} {f : Part → α → Part} (hf : ∀ q a, Part.Slotted q → Part.Slotted (f q a)) (as : List α)
    (h : p.Slotted) : (as.foldl f p).Slotted := by
  induction as generalizing p with
  | nil => exact h
  | cons a as ih => exact ih (hf p a h)

/-! ## Slots filled and emptied -/

theorem RunCtl.Placed.withoutCurrent {r : RunCtl} (h : r.Placed) : ({ r with current := none } : RunCtl).Placed :=
  ⟨fun _ hq => absurd hq (by simp), h.waiting, h.finishing⟩

theorem RunCtl.Placed.withoutPending {r : RunCtl} (h : r.Placed) : ({ r with pending := none } : RunCtl).Placed :=
  ⟨h.current, fun _ hq => absurd hq (by simp), h.finishing⟩

/-- R26, R27: whatever stands in the slots, once the PENDING run is promoted they are as R21 says. -/
theorem Part.slotted_promotePending (h : p.runs.Placed) : p.promotePending.Slotted := by
  unfold Part.promotePending
  split
  · next hp => exact ⟨h, fun hs => absurd hs (by simp [hp])⟩
  · next r hp =>
    refine Part.Slotted.keep ?_ (Part.wake_frame _).2.2.2.1
    refine ⟨⟨fun q hq => ?_, fun q hq => absurd hq (by simp), h.finishing⟩, fun hs => absurd hs (by simp)⟩
    obtain rfl : _ = q := by simpa using hq
    exact .inl rfl

theorem Part.Slotted.dropPending (h : p.Slotted) : ({ p with runs := { p.runs with pending := none } } : Part).Slotted :=
  ⟨h.toPlaced.withoutPending, fun hs => absurd hs (by simp)⟩

theorem Part.Slotted.withdrawPendingOf (h : p.Slotted) (n : Nat) : (p.withdrawPendingOf n).1.Slotted := by
  unfold Part.withdrawPendingOf
  split
  · split
    · exact h.dropPending
    · exact h
  · exact h

theorem Part.Slotted.completeSettled (h : p.Slotted) : p.completeSettled.Slotted := by
  unfold Part.completeSettled
  refine Part.Slotted.keep ?_ (Part.completeAll_frame _ _).2.2.1
  exact ⟨⟨h.current, h.waiting, fun q hq => h.finishing q (List.mem_filter.mp hq).1⟩, h.pending⟩

/-- R26, R33: a run that leaves the slot is FINISHING or gone, and the PENDING one is promoted. -/
theorem Part.Slotted.leaveSlot (h : p.Slotted) (r : Run) : (p.leaveSlot r).Slotted := by
  unfold Part.leaveSlot
  extract_lets src x src' y
  have hy : y.runs.Placed := by
    unfold y
    split
    · refine ⟨h.toPlaced.withoutCurrent.current, h.waiting, fun q hq => ?_⟩
      rcases List.mem_append.mp hq with hq | hq
      · exact h.finishing q hq
      · rw [List.mem_singleton.mp hq]
    · rw [(Part.completeAll_frame x _).2.2.1]
      exact h.toPlaced.withoutCurrent
  refine Part.slotted_promotePending ?_
  rw [(Part.runLeftSlot_frame y _).2.2.2.1]
  exact hy

theorem Part.Slotted.assigned (h : p.Slotted) : p.assigned.Slotted := by
  unfold Part.assigned
  split
  · exact h
  · next r hr =>
    dsimp only
    split
    · exact h.leaveSlot _
    · refine ⟨⟨fun q hq => ?_, h.waiting, h.finishing⟩, fun _ => rfl⟩
      obtain rfl : _ = q := by simpa using hq
      exact h.current r hr

/-- R28: a change of a run that leaves its state. -/
theorem Part.Slotted.modRun (h : p.Slotted) (i : RunId) {f : Run → Run} (hf : ∀ r, (f r).state = r.state) :
    (p.modRun i f).Slotted := by
  have keeps (r : Run) : (if r.id = i then f r else r).state = r.state := by
    split
    · exact hf r
    · rfl
  unfold Part.modRun
  refine ⟨⟨fun q hq => ?_, h.waiting, fun q hq => ?_⟩, fun hs => ?_⟩
  · obtain ⟨r, hr, rfl⟩ := Option.map_eq_some_iff.mp hq
    rw [keeps]
    exact h.current r hr
  · obtain ⟨r, hr, rfl⟩ := List.mem_map.mp hq
    rw [keeps]
    exact h.finishing r hr
  · simpa using h.pending hs

theorem Part.Slotted.reportSettled (h : p.Slotted) (ref : Option RunRef) {f : RunRef → Run → Run}
    (hf : ∀ x r, (f x r).state = r.state) : (p.reportSettled ref f).Slotted := by
  unfold Part.reportSettled
  split
  · exact h
  · exact (h.modRun _ (hf _)).completeSettled

/-! ## The acts -/

theorem Part.Slotted.recordTicket (h : p.Slotted) (d : Decision) : (p.recordTicket d).Slotted := by
  unfold Part.recordTicket
  dsimp only
  split
  · exact Part.Slotted.assigned (h.keep rfl)
  · exact h.keep rfl

theorem Part.Slotted.deposit (h : p.Slotted) (b : Nat) (t : Ticket) (rest : List Ticket) : (p.deposit b t rest).Slotted :=
  Part.Slotted.reportSettled (h.keep (by simp)) _ fun _ _ => rfl

theorem Part.Slotted.purgeSheet (h : p.Slotted) (t : Ticket) (rest : List Ticket) : (p.purgeSheet t rest).Slotted :=
  Part.Slotted.reportSettled (h.keep (by simp)) _ fun _ _ => rfl

theorem Part.Slotted.reportLost (h : p.Slotted) (t : Ticket) : (p.reportLost t).Slotted := by
  unfold Part.reportLost
  split
  · exact h.modRun _ fun _ => rfl
  · exact h

theorem Part.Slotted.loseTickets (h : p.Slotted) (m : Mode) : (p.loseTickets m).Slotted := by
  unfold Part.loseTickets
  extract_lets ts p1 src p2 p3 p4 p5
  have h3 : p3.Slotted := by
    refine h.keep ?_
    simp only [p3, p2, p1]
    split <;> rfl
  have h4 : p4.Slotted := Part.Slotted.foldl (fun q t hq => hq.keep (Part.loseReservation_frame q t).2.2.1) ts h3
  have h5 : p5.Slotted := (Part.Slotted.foldl (fun _ t hq => hq.reportLost t) ts h4).completeSettled
  exact h5.keep rfl

theorem Part.Slotted.enterService (h : p.Slotted) (c : ModeCause) (k : Option FaultKind) : (p.enterService c k).Slotted := by
  unfold Part.enterService
  dsimp only
  refine Part.Slotted.keep ?_ (Part.stopConveyor_frame _).2.2.2.2.1
  refine Part.Slotted.keep ?_ (Part.carriageService_frame _).2.2.2.2.1
  refine Part.Slotted.loseTickets ?_ _
  exact h.keep rfl

theorem Part.slotted_startUp (p : Part) (c : ModeCause) : (p.startUp c).Slotted :=
  ⟨⟨fun _ hq => absurd hq (by simp [Part.startUp]), fun _ hq => absurd hq (by simp [Part.startUp]),
    fun _ hq => absurd hq (by simp [Part.startUp])⟩, fun hs => absurd hs (by simp [Part.startUp])⟩

theorem Part.Slotted.raiseFault (h : p.Slotted) (k : FaultKind) (loc : Location) (job : Option Nat) :
    (p.raiseFault k loc job).Slotted := by
  unfold Part.raiseFault
  extract_lets mode x src
  have hx : x.Slotted := h.keep (by simp [x])
  split
  · split
    · exact hx.keep (by simp)
    · exact Part.slotted_startUp _ _
  · cases mode with
    | automatic => exact hx.enterService _ _
    | parked => exact hx.enterService _ _
    | waking => exact hx.enterService _ _
    | service => exact hx.keep rfl
    | starting => exact hx
    | halted => exact hx

theorem Part.Slotted.pathFault (h : p.Slotted) (k : FaultKind) (loc : Location) (job : Option Nat) :
    (p.pathFault k loc job).Slotted := by
  unfold Part.pathFault
  refine Part.Slotted.raiseFault ?_ k loc job
  exact h.keep rfl

theorem Part.Slotted.stopAtEntry (h : p.Slotted) (k : FaultKind) (job : Option Nat) : (p.stopAtEntry k job).Slotted := by
  refine Part.Slotted.pathFault ?_ _ _ _
  exact h.keep rfl

theorem Part.Slotted.carriageLost (h : p.Slotted) (loc : Location) : (p.carriageLost loc).Slotted := by
  unfold Part.carriageLost
  refine Part.Slotted.raiseFault ?_ _ _ _
  exact h.keep rfl

theorem Part.Slotted.endStarting (h : p.Slotted) : p.endStarting.Slotted := by
  unfold Part.endStarting
  extract_lets x y z w
  have hx : x.Slotted := by
    unfold x
    split
    · exact h.enterService _ _
    · exact h.keep rfl
  have hy : y.Slotted := Part.Slotted.foldl (f := Part.appendEject) (fun _ b hb => hb.keep rfl) _ hx
  exact hy.keep (by simp [w, z])

theorem Part.Slotted.homed (h : p.Slotted) : p.homed.Slotted := by
  unfold Part.homed
  extract_lets src x
  have hx : x.Slotted := h.keep rfl
  split
  · exact hx.endStarting
  · split
    · exact hx.keep (by simp)
    · exact hx
  · exact hx.keep (by simp)
  all_goals exact hx

theorem Part.Slotted.intrude (h : p.Slotted) (c : ModeCause) : (p.intrude c).Slotted := by
  unfold Part.intrude
  split
  · exact h.enterService _ _
  · exact h.enterService _ _
  · exact h.enterService _ _
  · exact h.keep (by simp)
  all_goals exact h

theorem Part.Slotted.arrivalMismatch (h : p.Slotted) (loc : Location) (job : Option Nat) : (p.arrivalMismatch loc job).Slotted :=
  Part.Slotted.raiseFault (h.keep (by simp)) _ _ _

theorem Part.Slotted.arrive (h : p.Slotted) (place : Place) : (p.arrive place).Slotted := by
  have idle : (if p.ctl.mode = .service then p else p.arrivalMismatch (placeLocation place) none).Slotted := by
    split
    · exact h
    · exact h.arrivalMismatch _ _
  unfold Part.arrive
  split
  · exact h
  · exact h
  all_goals
    split
    · split
      · exact h
      · split
        · split
          · exact h.keep (by simp)
          · exact h.arrivalMismatch _ _
        · exact h.arrivalMismatch _ _
    · exact h.arrivalMismatch _ _
    · exact idle
    · exact h

theorem Part.Slotted.carryExpired (h : p.Slotted) (t : Trip) : (p.carryExpired t).Slotted := by
  unfold Part.carryExpired
  split
  · exact h.keep (by simp)
  · exact Part.Slotted.raiseFault (h.keep (by simp)) _ _ _

theorem Part.Slotted.drainCurrent (h : p.Slotted) (n : Nat) : (p.drainCurrent n).Slotted := by
  refine ⟨⟨fun q hq => ?_, h.waiting, h.finishing⟩, fun hs => ?_⟩
  · obtain ⟨r, hr, rfl⟩ := Option.map_eq_some_iff.mp hq
    split
    · exact .inr rfl
    · exact h.current r hr
  · simpa [Part.drainCurrent] using h.pending hs

/-- R25: an accepted run stands in the CURRENT slot where that is free, and else in the PENDING one. -/
theorem Part.Slotted.admitRun (h : p.Slotted) {q : Run} (hq : q.state = .pending) : (p.admitRun q).1.Slotted := by
  unfold Part.admitRun
  extract_lets src src' x
  split
  · next hc =>
    have free : x.runs.pending = none := by
      by_contra hp
      have := h.pending (Option.isSome_iff_ne_none.mpr hp)
      rw [Option.isNone_iff_eq_none.mp hc] at this
      cases this
    refine Part.Slotted.keep ?_ (Part.wake_frame _).2.2.2.1
    refine ⟨⟨fun r hr => ?_, h.waiting, h.finishing⟩, fun _ => rfl⟩
    obtain rfl : _ = r := by simpa using hr
    exact .inl rfl
  · next hc =>
    refine ⟨⟨h.current, fun r hr => ?_, h.finishing⟩, fun _ => ?_⟩
    · obtain rfl : _ = r := by simpa using hr
      exact hq
    · simpa [Option.isSome_iff_ne_none] using hc

end Sys2Proof.Machine
end

section
/-! The invariants of every step: the sheet account (R56), the modes and ranges, the run slots (R21), and the bounds of the press
link (R154, R155, R158). -/

namespace Sys2Proof.Machine

/-! ## What an act keeps -/

/-- An act keeps the invariants on the part: its values change as listed, and the runs stay slotted. -/
structure Part.Sound (p q : Part) : Prop where
  evolves : p.Evolves q
  slots   : p.Slotted → q.Slotted

theorem Part.Sound.refl (p : Part) : p.Sound p := ⟨.refl p, id⟩

theorem Part.Sound.trans {p q r : Part} (h : p.Sound q) (k : q.Sound r) : p.Sound r :=
  ⟨h.evolves.trans k.evolves, k.slots ∘ h.slots⟩

/-- An act that leaves the runs is sound where its values change as listed. -/
theorem Part.Evolves.sound {p q : Part} (h : p.Evolves q) (e : q.runs = p.runs) : p.Sound q := ⟨h, fun k => k.keep e⟩

theorem Part.sound_of_same {p q : Part} (hv : q.vitals = p.vitals) (hr : q.runs = p.runs) : p.Sound q :=
  ((Part.Evolves.refl p).keep hv).sound hr

theorem Part.Sound.examineIdle {p q : Part} (h : p.Sound q) : p.Sound q.examineIdle :=
  h.trans ((Part.Evolves.refl q).examineIdle.sound (Part.examineIdle_frame q).2.2.2.1)

/-! ## Requests -/

@[simp] theorem Part.accept_part (p : Part) (r : Result) (f : ReplyFields) : (p.accept r f).part = p := rfl
@[simp] theorem Part.refuse_part (p : Part) (r : Result) : (p.refuse r).part = p := rfl

theorem storedIdleTime_ok (v : Nat) : IdleTimeOk (storedIdleTime v) := by
  unfold storedIdleTime IdleTimeOk clamp
  split
  · exact .inl rfl
  · exact .inr (by omega)

theorem Part.sound_optionSet (p : Part) (f : List Byte) : p.Sound (p.optionSet f).part := by
  unfold Part.optionSet
  dsimp only
  split
  · unfold Part.setIdleTime
    extract_lets stored src x y
    have hx : p.Evolves x := (Part.Evolves.refl p).change (.idleTime (storedIdleTime_ok _)) rfl
    refine Part.Evolves.sound (q := y) ?_ ?_
    · unfold y
      split
      · next h => exact hx.startIdleTimer h.1
      · exact hx
    · unfold y
      split <;> rfl
  · split
    · rw [Part.accept_part]
      exact Part.sound_of_same rfl rfl
    · exact .refl p
  · split
    · rw [Part.accept_part]
      exact Part.sound_of_same rfl rfl
    · exact .refl p
  · exact .refl p

theorem Part.sound_jobOpen (p : Part) (f : List Byte) : p.Sound (p.jobOpen f).part := by
  unfold Part.jobOpen
  split
  · exact .refl p
  · next j _ =>
    split
    · exact .refl p
    · split
      · exact .refl p
      · change p.Sound (p.admitJob j)
        unfold Part.admitJob
        extract_lets q x
        have hx : p.Evolves x := (Part.Evolves.refl p).keep rfl
        split
        · exact hx.grantCheck.sound (by simp [x])
        · exact hx.sound rfl

theorem Part.sound_closeJob (p : Part) (j : Job) : p.Sound (p.closeJob j).part := by
  unfold Part.closeJob
  extract_lets x
  have hx : p.Evolves x := (Part.Evolves.refl p).modJob _ _
  split
  · exact (hx.setJobState _ _).sound rfl
  · exact (hx.closeTakesEffect _).examineIdle.sound (by simp [x])

theorem Part.sound_jobClose (p : Part) (f : List Byte) : p.Sound (p.jobClose f).part := by
  unfold Part.jobClose
  split
  · exact .refl p
  · split
    · exact p.sound_closeJob _
    · exact p.sound_closeJob _
    · exact p.sound_closeJob _
    all_goals exact .refl p

theorem Part.sound_withdrawPendingOf (p : Part) (n : Nat) : p.Sound (p.withdrawPendingOf n).1 :=
  ⟨(Part.Evolves.refl p).withdrawPendingOf n, fun h => h.withdrawPendingOf n⟩

theorem Part.sound_jobHold (p : Part) (f : List Byte) : p.Sound (p.jobHold f).part := by
  unfold Part.jobHold
  split
  · exact .refl p
  · next j _ =>
    split
    · unfold Part.holdJob
      dsimp only
      refine (p.sound_withdrawPendingOf j.number).trans ?_
      change Part.Sound _ (if _ then _ else _)
      split
      · exact ((Part.Evolves.refl _).setJobState _ _).sound rfl
      · exact (((Part.Evolves.refl _).setJobState _ _).raise _).sound rfl
    all_goals exact .refl p

theorem Part.sound_jobRelease (p : Part) (f : List Byte) : p.Sound (p.jobRelease f).part := by
  unfold Part.jobRelease
  split
  · exact .refl p
  · split
    · exact ((Part.Evolves.refl p).setJobState _ _).sound rfl
    · exact ((Part.Evolves.refl p).setJobState _ _).sound rfl
    all_goals exact .refl p

theorem Part.sound_dropWaiting (p : Part) (n : Nat) : p.Sound (p.dropWaiting n) := by
  unfold Part.dropWaiting
  extract_lets hd src x y
  have hy : p.Evolves y := ((Part.Evolves.refl p).keep (r := x) rfl).dropJob n
  split
  · exact hy.grantCheck.sound (by simp [y, x])
  · exact hy.sound rfl

theorem Part.sound_cancelJob (p : Part) (j : Job) : p.Sound (p.cancelJob j).1 := by
  unfold Part.cancelJob
  dsimp only
  generalize hx : (p.setJobState j.number .cancelling).withdrawPendingOf j.number = x
  have sound : p.Sound x.1 := by
    rw [← hx]
    exact (((Part.Evolves.refl p).setJobState _ _).sound rfl).trans (Part.sound_withdrawPendingOf _ _)
  have drained : p.Sound (x.1.drainCurrent j.number) :=
    sound.trans ⟨(Part.Evolves.refl _).drainCurrent _, fun h => h.drainCurrent _⟩
  have voided : (x.1.drainCurrent j.number).Sound (j.heldBins.foldl Part.voidBin (x.1.drainCurrent j.number)) :=
    ⟨Part.Evolves.foldl (fun _ _ b hb => hb.voidBin b) _ (.refl _),
      Part.Slotted.foldl (fun q b hb => hb.keep (Part.voidBin_frame q b).2.2.1) _⟩
  exact (drained.trans voided).trans (((Part.Evolves.refl _).testEnd _).sound (Part.testEnd_frame _ _).2.2.2.1)

theorem Part.sound_jobCancel (p : Part) (f : List Byte) : p.Sound (p.jobCancel f).part := by
  unfold Part.jobCancel
  split
  · exact .refl p
  · next j _ =>
    split
    · exact p.sound_dropWaiting _
    · exact (p.sound_cancelJob j).examineIdle
    · exact (p.sound_cancelJob j).examineIdle
    · exact (p.sound_cancelJob j).examineIdle
    · exact (p.sound_cancelJob j).examineIdle
    · exact (p.sound_cancelJob j).examineIdle
    · exact .refl p

theorem Part.sound_runPost (p : Part) (f : List Byte) : p.Sound (p.runPost f).part := by
  unfold Part.runPost
  dsimp only
  split
  · exact .refl p
  · next j _ =>
    refine Part.Sound.examineIdle ⟨?_, fun h => h.admitRun rfl⟩
    unfold Part.admitRun
    extract_lets src src' x src''
    have hx : p.Evolves x := (Part.Evolves.refl p).change (.parkPending (b := false) (by simp)) rfl
    split
    · exact hx.promote _
    · exact hx.keep rfl

theorem Part.sound_runWithdraw (p : Part) (f : List Byte) : p.Sound (p.runWithdraw f).part := by
  unfold Part.runWithdraw
  dsimp only
  split
  · next r _ =>
    exact Part.Sound.examineIdle (q := p.leaveSlot r.cut) ⟨(Part.Evolves.refl p).leaveSlot _, fun h => h.leaveSlot _⟩
  · split
    · next r _ =>
      unfold Part.dropPending
      extract_lets src x
      have dropped : p.Sound x := ⟨(Part.Evolves.refl p).keep rfl, fun h => h.dropPending⟩
      exact (dropped.trans (((Part.Evolves.refl x).runDeparted r.job).sound (Part.runDeparted_frame _ _).2.2.1)).examineIdle
    · exact .refl p

theorem clamp_stock_ok (v : Nat) : ({ defined := true, caliper := clamp 50 400 v } : StockEntry).Ok := by
  intro _
  dsimp only [clamp]
  omega

theorem Part.sound_stockSet (p : Part) (f : List Byte) : p.Sound (p.stockSet f).part := by
  by_cases hc : byteAt f 0 ≤ 7
  · rw [p.stockSet_of_code hc]
    have inTable : byteAt f 0 < Config.numStocks := Nat.lt_succ_of_le hc
    refine ((Part.Evolves.refl p).change (.stock (byteAt f 0) inTable (clamp_stock_ok (wordAt f 1))) ?_).sound
      (by simp [Part.accept])
    simp [Part.accept, Part.setStock, inTable, Part.vitals]
  · rw [p.stockSet_of_badCode (by omega)]
    exact .refl p

theorem Part.sound_wireLoad (p : Part) (f : List Byte) : p.Sound (p.wireLoad f).part := by
  unfold Part.wireLoad
  rw [Part.accept_part]
  have loaded := (Part.Evolves.refl p).setWire (w := min wireLimit (longAt f 0)) (.inr (Nat.min_le_left _ _))
  exact loaded.takeCheck.examineIdle.sound (by simp)

theorem Part.sound_drawerLock (p : Part) (f : List Byte) : p.Sound (p.drawerLock f).part := by
  unfold Part.drawerLock
  dsimp only
  split
  · exact .refl p
  · split
    · exact .refl p
    · exact ((Part.Evolves.refl p).drawerAct _).choiceCheck.examineIdle.sound (by simp)

theorem Part.sound_drawerUnlock (p : Part) (f : List Byte) : p.Sound (p.drawerUnlock f).part := by
  unfold Part.drawerUnlock
  dsimp only
  split
  · exact .refl p
  · split
    · exact .refl p
    · split
      · exact ((Part.Evolves.refl p).drawerAct _).choiceCheck.examineIdle.sound (by simp)
      · exact .refl p

theorem Part.sound_attnClear (p : Part) (f : List Byte) : p.Sound (p.attnClear f).part := by
  unfold Part.attnClear
  split
  · exact .refl p
  · next cs _ =>
    refine ⟨Part.Evolves.foldl (fun _ _ c h => h.clearCondition c) cs (.refl p), fun h => ?_⟩
    exact Part.Slotted.foldl (fun q c hq => hq.keep (Part.clearCondition_frame q c).2.2.2.2.1) cs h

theorem Part.sound_faultClear (p : Part) : p.Sound p.faultClear.part :=
  ((Part.Evolves.refl p).change (.later (Nat.zero_le _)) rfl).sound rfl

theorem Part.sound_resume {p : Part} (hm : p.ctl.mode = .service) : p.Sound p.resume.part := by
  unfold Part.resume
  split
  · exact .refl p
  · split
    · exact .refl p
    · split
      · exact .refl p
      · unfold Part.beginResume
        dsimp only
        have flagged : p.Evolves { p with ctl := { p.ctl with resumeFlag := true } } :=
          (Part.Evolves.refl p).change (.resumeFlag (b := true) fun _ => hm) rfl
        rw [Part.accept_part]
        refine flagged.audit.conveyorCheck.settleHeld.startHoming.sound ?_
        simp only [Part.startHoming_runs, Part.settleHeld_frame, Part.conveyorCheck_frame, Part.audit_frame]

theorem Part.sound_parkRequest (p : Part) : p.Sound p.parkRequest.part := by
  have pends (hm : p.ctl.mode = .automatic ∨ p.ctl.mode = .waking) :
      p.Sound { p with ctl := { p.ctl with parkPending := true } } :=
    ((Part.Evolves.refl p).change (.parkPending (b := true) fun _ => hm) rfl).sound rfl
  unfold Part.parkRequest
  dsimp only
  split
  · next hm =>
    split
    · exact ((Part.Evolves.refl p).park hm _).sound (by simp)
    · exact pends (.inl hm)
  · next hm => exact pends (.inr hm)
  all_goals exact .refl p

/-- R156: every request is sound. -/
theorem Part.sound_request (p : Part) (l : Link) (r : RequestKind) (f : List Byte) : p.Sound (p.request l r f).part := by
  by_cases hm : p.ctl.mode ∈ acceptingModes r
  · cases hl : lengthOk r f with
    | false =>
      rw [Part.request_of_badLength l hm hl]
      exact .refl p
    | true =>
      rw [Part.request_of_checked l hm hl]
      cases r with
      | identify => exact .refl p
      | stateQuery =>
        change p.Sound (p.stateQuery l f).part
        unfold Part.stateQuery
        split <;> exact .refl p
      | optionSet => exact p.sound_optionSet f
      | jobOpen => exact p.sound_jobOpen f
      | jobClose => exact p.sound_jobClose f
      | jobHold => exact p.sound_jobHold f
      | jobRelease => exact p.sound_jobRelease f
      | jobCancel => exact p.sound_jobCancel f
      | runPost => exact p.sound_runPost f
      | runWithdraw => exact p.sound_runWithdraw f
      | stockSet => exact p.sound_stockSet f
      | wireLoad => exact p.sound_wireLoad f
      | drawerLock => exact p.sound_drawerLock f
      | drawerUnlock => exact p.sound_drawerUnlock f
      | attnClear => exact p.sound_attnClear f
      | faultClear => exact p.sound_faultClear
      | resume => exact Part.sound_resume (List.mem_singleton.mp hm)
      | park => exact p.sound_parkRequest
      | restart => exact .refl p
  · rw [Part.request_of_wrongMode l f hm]
    exact .refl p

end Sys2Proof.Machine
end

section
/-! The invariants of every step: what the events and the press link keep of the sheet account (R56), of the modes and ranges, and
of the run slots (R21). -/

namespace Sys2Proof.Machine

/-! ## Events -/

theorem Part.sound_unlessHalted {f : Part → Part} (hf : ∀ p, Part.Sound p (f p)) (p : Part) : p.Sound (p.unlessHalted f) := by
  unfold Part.unlessHalted
  split
  · exact .refl p
  · exact hf p

theorem Part.sound_reach (p : Part) (t : Nat) : p.Sound (p.reach t) := Part.sound_of_same rfl rfl

/-- A line that moves moves no other value. -/
theorem Part.sound_lines (p : Part) (l : Lines) : p.Sound { p with lines := l } := Part.sound_of_same rfl rfl

theorem Part.sound_settleDecision {p q : Part} (e : q.vitals = p.enterSheet.vitals) (er : q.runs = p.runs) (d : Decision) :
    p.Sound (q.settleDecision d) := by
  have same {r : Part} (h : r.runs = p.runs) : p.Slotted → r.Slotted := fun k => k.keep h
  unfold Part.settleDecision
  split
  · next b _ =>
    have hr : (q.reserve b d.caliper).vitals = p.enterSheet.vitals := by
      rw [← e]
      simp [Part.vitals]
    exact Part.Sound.examineIdle ⟨(Part.Evolves.refl p).recordTicket hr d, fun h => (same (by simp [er]) h).recordTicket d⟩
  · split
    · exact ⟨(Part.Evolves.refl p).stopAtEntry e _ _, fun h => (same er h).stopAtEntry _ _⟩
    · exact Part.Sound.examineIdle ⟨(Part.Evolves.refl p).recordTicket e d, fun h => (same er h).recordTicket d⟩

theorem Part.sound_gateDecision (p : Part) : p.Sound p.gateDecision := by
  unfold Part.gateDecision
  extract_lets q d
  split
  · exact ⟨(Part.Evolves.refl p).stopAtEntry (r := q) rfl _ _, fun h => Part.Slotted.stopAtEntry (p := q) (h.keep rfl) _ _⟩
  · exact Part.sound_settleDecision (by simp [Part.vitals, q, Part.latchIf, apply_ite, Part.latch_later]) (by simp [q]) d

theorem Part.sound_onEntry (p : Part) : p.Sound p.onEntry := by
  unfold Part.onEntry
  split
  · exact .refl p
  · split
    · exact p.sound_gateDecision
    · split
      · exact ⟨(Part.Evolves.refl p).stopAtEntry (r := p.enterSheet) rfl _ _,
          fun h => Part.Slotted.stopAtEntry (p := p.enterSheet) (h.keep rfl) _ _⟩
      · exact .refl p

theorem Part.sound_pathFault (p : Part) (k : FaultKind) (loc : Location) (job : Option Nat) : p.Sound (p.pathFault k loc job) :=
  ⟨(Part.Evolves.refl p).pathFault _ _ _, fun h => h.pathFault _ _ _⟩

theorem Part.sound_onDeposit (b : Nat) (p : Part) : p.Sound (p.onDeposit b) := by
  unfold Part.onDeposit
  split
  · exact .refl p
  · split
    · split
      · exact Part.Sound.examineIdle ⟨(Part.Evolves.refl p).deposit _ _ _, fun h => h.deposit _ _ _⟩
      · exact p.sound_pathFault _ _ _
    · split
      · exact p.sound_pathFault _ _ _
      · exact .refl p

theorem Part.sound_onPurgeArrival (p : Part) : p.Sound p.onPurgeArrival := by
  unfold Part.onPurgeArrival
  extract_lets q
  have hq : p.Sound q := (Part.Evolves.refl p).countPurge.sound rfl
  split
  · exact hq
  · split
    · split
      · exact hq.trans (Part.Sound.examineIdle ⟨(Part.Evolves.refl q).purgeSheet _ _, fun h => h.purgeSheet _ _⟩)
      · exact hq.trans (q.sound_pathFault _ _ _)
    · split
      · exact hq.trans (q.sound_pathFault _ _ _)
      · exact hq

theorem Part.sound_onPurgeFullOff (p : Part) : p.Sound p.onPurgeFullOff :=
  ((Part.Evolves.refl p).change (.purgeCount (Nat.zero_le _)) rfl).sound rfl

theorem Part.sound_onTicketDeadline (p : Part) : p.Sound p.onTicketDeadline := by
  unfold Part.onTicketDeadline
  split
  · split
    · exact .refl p
    · exact (p.sound_reach _).trans (Part.sound_pathFault (p.reach _) _ _ _)
  · exact .refl p

theorem Part.sound_carriageLost (p : Part) (loc : Location) : p.Sound (p.carriageLost loc) :=
  ⟨(Part.Evolves.refl p).carriageLost _, fun h => h.carriageLost _⟩

theorem Part.sound_onCarriageAt (c : Nat) (p : Part) : p.Sound (p.onCarriageAt c) := by
  unfold Part.onCarriageAt
  split
  · split
    · exact ((Part.Evolves.refl p).startCycle _).takeCheck.examineIdle.sound (by simp)
    · exact p.sound_carriageLost _
  · exact .refl p

theorem Part.sound_onTravelDeadline (p : Part) : p.Sound p.onTravelDeadline := by
  unfold Part.onTravelDeadline
  split
  · exact (p.sound_reach _).trans (Part.sound_carriageLost (p.reach _) _)
  · exact .refl p

theorem Part.sound_onStitchDone (p : Part) : p.Sound p.onStitchDone := by
  unfold Part.onStitchDone
  split
  · split
    · exact ((Part.Evolves.refl p).handOn _).examineIdle.sound (by simp)
    · split
      · exact Part.sound_of_same rfl rfl
      · exact ((Part.Evolves.refl p).startCycle _).takeCheck.examineIdle.sound (by simp)
  · exact .refl p

theorem Part.sound_stitchJam (p : Part) (b : Nat) : p.Sound (p.stitchJam b) := by
  unfold Part.stitchJam
  extract_lets x src y
  have hy : p.Evolves y := ((Part.Evolves.refl p).modSet b _).keep rfl
  exact ⟨hy.raiseFault _ _ _, fun h => Part.Slotted.raiseFault (p := y) (h.keep (by simp [y, x])) _ _ _⟩

theorem Part.sound_onStitchCycleDeadline (p : Part) : p.Sound p.onStitchCycleDeadline := by
  unfold Part.onStitchCycleDeadline
  split
  · exact (p.sound_reach _).trans (Part.sound_stitchJam (p.reach _) _)
  · exact .refl p

theorem Part.sound_onCarriageHome (p : Part) : p.Sound p.onCarriageHome := by
  unfold Part.onCarriageHome
  split
  · exact Part.Sound.examineIdle ⟨(Part.Evolves.refl p).homed, fun h => h.homed⟩
  · exact p.sound_carriageLost _
  all_goals exact .refl p

theorem Part.sound_onHomingDeadline (p : Part) : p.Sound p.onHomingDeadline := by
  unfold Part.onHomingDeadline
  split
  · exact (p.sound_reach _).trans (Part.sound_carriageLost (p.reach _) _)
  · exact .refl p

theorem Part.sound_onBinEmptied (b : Nat) (p : Part) : p.Sound (p.onBinEmptied b) := by
  unfold Part.onBinEmptied
  split
  · split
    · exact (((Part.Evolves.refl p).modTrip _).releaseBin b).examineIdle.sound (by simp)
    · exact .refl p
  · exact .refl p

theorem Part.Evolves.endSlip {p q : Part} (h : p.Evolves q) (x : Header) : p.Evolves (q.endSlip x) := by
  unfold Part.endSlip
  refine Part.Evolves.startEjector (Part.Evolves.modTrip ?_ _)
  exact h.keep rfl

theorem Part.endSlip_runs (p : Part) (h : Header) : (p.endSlip h).runs = p.runs := by
  simp [Part.endSlip]

theorem Part.sound_onSlipFed (p : Part) : p.Sound p.onSlipFed := by
  unfold Part.onSlipFed
  split
  · refine Part.Evolves.sound (Part.Evolves.endSlip ?_ _) (Part.endSlip_runs _ _)
    exact (Part.Evolves.refl p).keep rfl
  · exact .refl p

theorem Part.sound_onSlipFeedDeadline (p : Part) : p.Sound p.onSlipFeedDeadline := by
  unfold Part.onSlipFeedDeadline
  split
  · exact (((Part.Evolves.refl p).reach _).latch _).endSlip _ |>.sound (by simp [Part.endSlip_runs])
  · exact .refl p

theorem Part.sound_onSlipLow (on : Bool) (p : Part) : p.Sound (p.onSlipLow on) := by
  unfold Part.onSlipLow
  refine Part.Evolves.sound (Part.Evolves.latchIf ?_ _ _) (by simp)
  exact (Part.Evolves.refl p).keep rfl

theorem Part.sound_arrive (place : Place) (p : Part) : p.Sound (p.arrive place).examineIdle :=
  Part.Sound.examineIdle ⟨(Part.Evolves.refl p).arrive _, fun h => h.arrive _⟩

theorem Part.sound_onCarryDeadline (p : Part) : p.Sound p.onCarryDeadline := by
  unfold Part.onCarryDeadline
  split
  · split
    · exact Part.Sound.examineIdle ⟨((Part.Evolves.refl p).reach _).carryExpired _,
        fun h => Part.Slotted.carryExpired (p := p.reach _) (h.keep rfl) _⟩
    · exact .refl p
  · exact .refl p

theorem Part.sound_onOverflowEmptied (p : Part) : p.Sound p.onOverflowEmptied := by
  unfold Part.onOverflowEmptied
  extract_lets src x src' y
  have hy : p.Evolves y := (Part.Evolves.refl p).keep rfl
  exact hy.choiceCheck.examineIdle.sound (by simp [y, x])

theorem Part.sound_onCollected (d : Nat) (p : Part) : p.Sound (p.onCollected d) :=
  ((Part.Evolves.refl p).drawerAct _).choiceCheck.examineIdle.sound (by simp)

theorem Part.sound_onTransportReady (p : Part) : p.Sound p.onTransportReady := by
  unfold Part.onTransportReady
  split
  · next hm =>
    extract_lets src x
    have ready : p.Evolves (x.changeMode .automatic .transportReady none) := (Part.Evolves.refl p).change (.ready hm) rfl
    exact ready.takeCheck.choiceCheck.examineIdle.sound (by simp [x])
  · exact .refl p

theorem Part.sound_onWakingDeadline (p : Part) : p.Sound p.onWakingDeadline := by
  unfold Part.onWakingDeadline
  split
  · exact ⟨((Part.Evolves.refl p).reach _).raiseFault _ _ _,
      fun h => Part.Slotted.raiseFault (p := p.reach _) (h.keep rfl) _ _ _⟩
  · exact .refl p

theorem Part.sound_onIdleTimerExpiry (p : Part) : p.Sound p.onIdleTimerExpiry := by
  unfold Part.onIdleTimerExpiry
  split
  · next hm _ => exact (((Part.Evolves.refl p).reach _).park hm _).sound (by simp)
  · exact .refl p

theorem Part.sound_intrude (p : Part) (c : ModeCause) : p.Sound (p.intrude c) :=
  ⟨(Part.Evolves.refl p).intrude _, fun h => h.intrude _⟩

theorem Part.sound_onDoorOpened (p : Part) : p.Sound p.onDoorOpened := by
  unfold Part.onDoorOpened
  refine Part.Sound.trans ?_ (Part.sound_intrude _ _)
  exact Part.sound_of_same rfl rfl

theorem Part.sound_onKeyOn (p : Part) : p.Sound p.onKeyOn := by
  unfold Part.onKeyOn
  refine Part.Sound.trans ?_ (Part.sound_intrude _ _)
  exact Part.sound_of_same rfl rfl

theorem Part.sound_startUp (p : Part) (c : ModeCause) : p.Sound (p.startUp c) :=
  ⟨(Part.Evolves.refl p).startUp _, fun _ => p.slotted_startUp _⟩

theorem Part.sound_latch (p : Part) (c : Condition) : p.Sound (p.latch c) := ((Part.Evolves.refl p).latch c).sound (by simp)

/-! ## The press link -/

/-- A step of the machine keeps the invariants on the part, and leaves nothing waiting to be handed over. -/
structure State.Sound (s t : State) : Prop where
  part    : s.part.Sound t.part
  settled : s.part.Settled → t.part.Settled

theorem State.Sound.refl (s : State) : s.Sound s := ⟨.refl _, id⟩

theorem State.Sound.trans {s t u : State} (h : s.Sound t) (k : t.Sound u) : s.Sound u :=
  ⟨h.part.trans k.part, k.settled ∘ h.settled⟩

/-- The link works on a part whose attention set alone changes. -/
theorem State.sound_of_part {s t : State} (e : t.part = s.part) : s.Sound t := by
  refine ⟨?_, ?_⟩
  · rw [e]
    exact .refl _
  · rw [e]
    exact id

theorem State.sound_link (s : State) (l : Link) : s.Sound { s with link := l } := State.sound_of_part rfl

/-- Offering notices and sending change nothing of the part but its attention set and the owed notice. -/
theorem State.foldl_offer_part (ns : List Notice) (x : State) :
    (ns.foldl (fun s n => (s.offer n).transmit) x).part =
      { x.part with faults := x.part.faults.sameRecord (ns.foldl (fun s n => (s.offer n).transmit) x).part.faults } := by
  induction ns generalizing x with
  | nil => rfl
  | cons n ns ih =>
    rw [List.foldl_cons, ih, (State.transmit_same (x.offer n)).2.2.2, (State.offer_same x n).2.2.2]
    rfl

/-- R155: what handing over leaves of the part. -/
theorem State.flush_part (s : State) :
    s.flush.part =
      { s.part with faults := s.part.faults.sameRecord s.flush.part.faults, out := { reset := false, notices := [] } } := by
  unfold State.flush
  exact State.foldl_offer_part _ _

theorem State.flush_settles (s : State) : s.flush.part.Settled := by
  unfold Part.Settled
  rw [State.flush_part]

theorem State.sound_flush (s : State) : s.Sound s.flush := by
  refine ⟨Part.sound_of_same ?_ ?_, fun _ => s.flush_settles⟩
  · rw [State.flush_part]; rfl
  · rw [State.flush_part]

/-- A sound act of the part is a sound step. -/
theorem State.sound_act {s x : State} {f : Part → Part} (h : s.part.Sound (f x.part)) : s.Sound (x.act f) :=
  ⟨h.trans (State.sound_flush { x with part := f x.part }).part, fun _ => State.flush_settles _⟩

theorem State.sound_takeBody (s : State) (body : List Byte) : s.Sound (s.takeBody body) := by
  have answered : s.part.Sound (s.answerTo body).1 := by
    unfold State.answerTo
    split
    · exact .refl _
    · exact .refl _
    · split
      · exact .refl _
      · exact Part.sound_request _ _ _ _
  unfold State.takeBody
  generalize s.answerTo body = r at answered
  refine ⟨(answered.trans ?_).trans (State.sound_flush _).part, fun _ => State.flush_settles _⟩
  refine Part.sound_of_same ?_ ?_
  · rw [(State.transmit_same _).2.2.2]; rfl
  · rw [(State.transmit_same _).2.2.2]

theorem State.sound_takeFrames (n : Nat) (s : State) : s.Sound (s.takeFrames n) := by
  induction n generalizing s with
  | zero => exact .refl s
  | succ n ih =>
    unfold State.takeFrames
    split
    · split
      · exact .refl s
      · exact ((s.sound_link _).trans (State.sound_takeBody _ _)).trans (ih _)
    · exact .refl s

theorem State.sound_pump (s : State) : s.Sound s.pump := s.sound_takeFrames _

theorem State.sound_discard (s : State) : s.Sound s.discard :=
  State.sound_act (f := fun p => p.latch .linkNoise) (s.part.sound_latch .linkNoise)

theorem State.sound_complete (s : State) (body : List Byte) : s.Sound (s.complete body) := by
  unfold State.complete
  split
  · exact (s.sound_link _).trans (State.sound_pump _)
  · exact State.sound_of_part rfl

theorem State.sound_receive (s : State) (b : Byte) : s.Sound (s.receive b) := by
  unfold State.receive
  split
  · split
    · exact State.sound_of_part rfl
    · exact .refl s
  · split
    · exact s.sound_discard
    · exact State.sound_of_part rfl
  · split
    · exact State.sound_of_part rfl
    · split
      · exact (s.sound_link _).trans (State.sound_complete _ _)
      · exact s.sound_discard

theorem State.sound_frameArrives (s : State) (body : List Byte) : s.Sound (s.frameArrives body) := by
  unfold State.frameArrives
  split
  · exact State.sound_act (f := fun p => p.latch .linkNoise) (s.part.sound_latch .linkNoise)
  · exact s.sound_complete body

theorem State.sound_sample (s : State) (occ : Occupancy) : s.Sound (s.sample occ) := ⟨Part.sound_of_same rfl rfl, id⟩

theorem State.sound_frameEnds (s : State) : s.Sound s.frameEnds := by
  unfold State.frameEnds
  split
  · exact .refl s
  · dsimp only
    split
    · exact State.sound_act (f := fun p => p.startUp .restartRequest) (s.part.sound_startUp _)
    · refine State.Sound.trans ⟨Part.sound_of_same ?_ ?_, fun h => ?_⟩ (State.sound_pump _)
      · rw [(State.transmit_same _).2.2.2]; rfl
      · rw [(State.transmit_same _).2.2.2]
      · unfold Part.Settled
        rw [(State.transmit_same _).2.2.2]
        exact h

/-! ## The bounds of the press link -/

/-- R154, R155, R158: the bounds of the press link on its own records. -/
structure Link.Bounded (l : Link) : Prop where
  rx      : l.rx.Ok
  buffer  : l.buffer.length ≤ 2
  bodies  : ∀ body ∈ l.buffer, 1 ≤ body.length ∧ body.length ≤ 250
  outbox  : l.outbox.length ≤ 32
  noise   : l.noise ≤ 65535
  overrun : l.overrun ≤ 65535

theorem linkOk_iff (s : State) : LinkOk s ↔ s.part.Settled ∧ s.link.Bounded :=
  ⟨fun h => ⟨h.settled, h.rx, h.buffer, h.bodies, h.outbox, h.noise, h.overrun⟩,
    fun ⟨hs, h⟩ => ⟨hs, h.rx, h.buffer, h.bodies, h.outbox, h.noise, h.overrun⟩⟩

theorem bump_le (n : Nat) : bump n ≤ 65535 := Nat.min_le_left _ _

/-- R158: a notice joins an outbox that has room, and is discarded else. -/
theorem State.bounded_offer {s : State} (h : s.link.Bounded) (n : Notice) : (s.offer n).link.Bounded := by
  unfold State.offer
  extract_lets seq src x
  split
  · next room =>
    refine ⟨h.rx, h.buffer, h.bodies, ?_, h.noise, h.overrun⟩
    have room : s.link.outbox.length < 32 := room
    change (s.link.outbox ++ [_]).length ≤ 32
    simp only [List.length_append, List.length_singleton]
    omega
  · unfold State.loseNotice
    dsimp only
    split <;> exact ⟨h.rx, h.buffer, h.bodies, h.outbox, h.noise, h.overrun⟩

theorem State.bounded_transmit {s : State} (h : s.link.Bounded) : s.transmit.link.Bounded := by
  unfold State.transmit
  split
  · exact h
  · split
    · exact ⟨h.rx, h.buffer, h.bodies, h.outbox, h.noise, h.overrun⟩
    · next n rest _ ho =>
      have sent : ({ s.link with sending := some (.notice n), outbox := rest } : Link).Bounded := by
        refine ⟨h.rx, h.buffer, h.bodies, ?_, h.noise, h.overrun⟩
        have := h.outbox
        rw [ho, List.length_cons] at this
        exact Nat.le_of_succ_le this
      unfold State.payOwed
      split
      · exact sent
      · exact State.bounded_offer (s := { s with part := _, link := _ }) sent _
    · exact h

theorem Link.bounded_reset (l : Link) : l.reset.Bounded :=
  ⟨trivial, Nat.zero_le _, fun _ hb => absurd hb List.not_mem_nil, Nat.zero_le _, Nat.zero_le _, Nat.zero_le _⟩

theorem State.bounded_flush {s : State} (h : s.link.Bounded) : s.flush.link.Bounded := by
  have key : ∀ (ns : List Notice) (x : State), x.link.Bounded →
      (ns.foldl (fun s n => (s.offer n).transmit) x).link.Bounded := by
    intro ns
    induction ns with
    | nil => exact fun _ hx => hx
    | cons n ns ih => exact fun x hx => ih _ (State.bounded_transmit (State.bounded_offer hx n))
  unfold State.flush
  refine key _ _ ?_
  dsimp only
  split
  · exact Link.bounded_reset _
  · exact h

theorem State.bounded_act {s : State} (h : s.link.Bounded) (f : Part → Part) : (s.act f).link.Bounded :=
  State.bounded_flush (s := { s with part := f s.part }) h

theorem State.bounded_takeBody {s : State} (h : s.link.Bounded) (body : List Byte) : (s.takeBody body).link.Bounded := by
  unfold State.takeBody
  refine State.bounded_flush (State.bounded_transmit ?_)
  exact ⟨h.rx, h.buffer, h.bodies, h.outbox, h.noise, h.overrun⟩

theorem State.bounded_takeFrames (n : Nat) {s : State} (h : s.link.Bounded) : (s.takeFrames n).link.Bounded := by
  induction n generalizing s with
  | zero => exact h
  | succ n ih =>
    unfold State.takeFrames
    split
    · split
      · exact h
      · next body rest hb =>
        refine ih (State.bounded_takeBody ?_ body)
        refine ⟨h.rx, ?_, fun b hm => h.bodies b ?_, h.outbox, h.noise, h.overrun⟩
        · have := h.buffer
          rw [hb, List.length_cons] at this
          exact Nat.le_of_succ_le this
        · rw [hb]
          exact List.mem_cons_of_mem _ hm
    · exact h

/-- R155: a body that a frame can hold joins a buffer that has room. -/
theorem State.bounded_complete {s : State} (h : s.link.Bounded) {body : List Byte} (hb : 1 ≤ body.length ∧ body.length ≤ 250) :
    (s.complete body).link.Bounded := by
  unfold State.complete
  split
  · next room =>
    refine State.bounded_takeFrames _ ⟨h.rx, ?_, fun b hm => ?_, h.outbox, h.noise, h.overrun⟩
    · have room : s.link.buffer.length < 2 := room
      simp only [List.length_append, List.length_singleton]
      omega
    · rcases List.mem_append.mp hm with hm | hm
      · exact h.bodies b hm
      · rw [List.mem_singleton.mp hm]
        exact hb
  · exact ⟨h.rx, h.buffer, h.bodies, h.outbox, h.noise, bump_le _⟩

theorem State.bounded_discard {s : State} (h : s.link.Bounded) : s.discard.link.Bounded := by
  unfold State.discard
  refine State.bounded_act ?_ _
  exact ⟨trivial, h.buffer, h.bodies, h.outbox, bump_le _, h.overrun⟩

/-- R154: the receiver counts a body's bytes up to the length that came before them. -/
theorem State.bounded_receive {s : State} (h : s.link.Bounded) (b : Byte) : (s.receive b).link.Bounded := by
  unfold State.receive
  split
  · split
    · exact ⟨trivial, h.buffer, h.bodies, h.outbox, h.noise, h.overrun⟩
    · exact h
  · split
    · exact State.bounded_discard h
    · next hb =>
      have pos : b.toNat ≠ 0 := fun h0 => hb (.inl (BitVec.eq_of_toNat_eq h0))
      refine ⟨⟨?_, ?_, Nat.zero_le _⟩, h.buffer, h.bodies, h.outbox, h.noise, h.overrun⟩ <;> omega
  · next n got hrx =>
    obtain ⟨h1, h250, hgot⟩ : 1 ≤ n ∧ n ≤ 250 ∧ got.length ≤ n := by simpa [hrx, Rx.Ok] using h.rx
    split
    · next hlt =>
      refine ⟨⟨h1, h250, ?_⟩, h.buffer, h.bodies, h.outbox, h.noise, h.overrun⟩
      simp only [List.length_append, List.length_singleton]
      omega
    · split
      · refine State.bounded_complete ?_ (by omega)
        exact ⟨trivial, h.buffer, h.bodies, h.outbox, h.noise, h.overrun⟩
      · exact State.bounded_discard h

theorem State.bounded_frameArrives {s : State} (h : s.link.Bounded) (body : List Byte) : (s.frameArrives body).link.Bounded := by
  unfold State.frameArrives
  split
  · refine State.bounded_act ?_ _
    exact ⟨h.rx, h.buffer, h.bodies, h.outbox, bump_le _, h.overrun⟩
  · exact State.bounded_complete h (by omega)

theorem State.bounded_frameEnds {s : State} (h : s.link.Bounded) : s.frameEnds.link.Bounded := by
  unfold State.frameEnds
  split
  · exact h
  · extract_lets src x
    have hx : x.link.Bounded := ⟨h.rx, h.buffer, h.bodies, h.outbox, h.noise, h.overrun⟩
    split
    · exact State.bounded_act hx _
    · exact State.bounded_takeFrames _ (State.bounded_transmit hx)

/-! ## Commands -/

/-- A step keeps every invariant of the part and the bounds of the press link. -/
structure State.Keeps (s t : State) : Prop where
  sound   : s.Sound t
  bounded : s.link.Bounded → t.link.Bounded

/-- An act of the part on the state as a command finds it. -/
theorem State.keeps_act_of {s x : State} {f : Part → Part} (hx : s.link.Bounded → x.link.Bounded) (hf : s.part.Sound (f x.part)) :
    s.Keeps (x.act f) :=
  ⟨State.sound_act hf, fun h => State.bounded_act (hx h) f⟩

theorem State.keeps_act {s : State} {f : Part → Part} (hf : s.part.Sound (f s.part)) : s.Keeps (s.act f) :=
  State.keeps_act_of id hf

theorem State.keeps_sampled_act {s : State} {f : Part → Part} (occ : Occupancy) (hf : ∀ p, Part.Sound p (f p)) :
    s.Keeps ((s.sample occ).act f) :=
  State.keeps_act_of id ((s.sound_sample occ).part.trans (hf _))

theorem State.keeps_frameArrives (s : State) (body : List Byte) : s.Keeps (s.frameArrives body) :=
  ⟨s.sound_frameArrives body, fun h => State.bounded_frameArrives h body⟩

theorem State.keeps_foldl_receive (bytes : List Byte) (s : State) : s.Keeps (bytes.foldl State.receive s) := by
  induction bytes generalizing s with
  | nil => exact ⟨.refl s, id⟩
  | cons b bytes ih =>
    exact ⟨(s.sound_receive b).trans (ih _).sound, fun h => (ih _).bounded (State.bounded_receive h b)⟩

/-- What every command keeps. -/
theorem exec_keeps {i : Instr} {s t : State} (h : exec i s = .next t) : s.Keeps t := by
  have guarded {c : Prop} [Decidable c] {u : State} {r : Fault}
      (hu : (if c then (.next u : Host.Outcome State Fault Refusal) else .fault r) = .next t) (k : s.Keeps u) : s.Keeps t := by
    split at hu
    · cases hu
      exact k
    · cases hu
  have ignored {l : Lines} {f : Part → Part} (hf : ∀ p, Part.Sound p (f p)) :
      s.part.Sound (Part.unlessHalted { s.part with lines := l } f) :=
    (s.part.sound_lines l).trans (Part.sound_unlessHalted hf _)
  cases i with
  | powerOn lines =>
    obtain rfl := Host.Outcome.next.inj h
    refine State.keeps_act_of ?_ ?_
    · exact fun h => ⟨h.rx, h.buffer, h.bodies, h.outbox, h.noise, h.overrun⟩
    · exact (s.part.sound_lines lines).trans (Part.sound_startUp _ _)
  | frameReceived bytes occ =>
    cases h
    exact ⟨(s.sound_sample occ).trans (State.keeps_foldl_receive bytes _).sound,
      fun h => (State.keeps_foldl_receive bytes (s.sample occ)).bounded h⟩
  | frameTimeout =>
    cases h
    split
    · exact ⟨.refl s, id⟩
    · exact ⟨s.sound_discard, fun h => State.bounded_discard h⟩
  | frameSent occ =>
    cases h
    exact ⟨(s.sound_sample occ).trans (State.sound_frameEnds _), fun h => State.bounded_frameEnds (s := s.sample occ) h⟩
  | resume tag f occ =>
    cases h
    exact ⟨(s.sound_sample occ).trans (State.sound_frameArrives _ _),
      fun h => State.bounded_frameArrives (s := s.sample occ) h _⟩
  | unknownKind body => cases h; exact s.keeps_frameArrives _
  | identify => cases h; exact s.keeps_frameArrives _
  | stateQuery => cases h; exact s.keeps_frameArrives _
  | optionSet => cases h; exact s.keeps_frameArrives _
  | jobOpen => cases h; exact s.keeps_frameArrives _
  | jobClose => cases h; exact s.keeps_frameArrives _
  | jobHold => cases h; exact s.keeps_frameArrives _
  | jobRelease => cases h; exact s.keeps_frameArrives _
  | jobCancel => cases h; exact s.keeps_frameArrives _
  | runPost => cases h; exact s.keeps_frameArrives _
  | runWithdraw => cases h; exact s.keeps_frameArrives _
  | stockSet => cases h; exact s.keeps_frameArrives _
  | wireLoad => cases h; exact s.keeps_frameArrives _
  | drawerLock => cases h; exact s.keeps_frameArrives _
  | drawerUnlock => cases h; exact s.keeps_frameArrives _
  | attnClear => cases h; exact s.keeps_frameArrives _
  | faultClear => cases h; exact s.keeps_frameArrives _
  | park => cases h; exact s.keeps_frameArrives _
  | restart => cases h; exact s.keeps_frameArrives _
  | entry => cases h; exact State.keeps_act (Part.sound_onEntry _)
  | deposit b => exact guarded h (State.keeps_act (Part.sound_onDeposit b _))
  | purgeArrival => cases h; exact State.keeps_act (Part.sound_unlessHalted Part.sound_onPurgeArrival _)
  | purgeFullOn => cases h; exact State.keeps_act (ignored fun _ => Part.sound_of_same rfl rfl)
  | purgeFullOff => cases h; exact State.keeps_act (ignored Part.sound_onPurgeFullOff)
  | ticketDeadline => cases h; exact State.keeps_act (Part.sound_onTicketDeadline _)
  | binEmptied b => exact guarded h (State.keeps_act (ignored (Part.sound_onBinEmptied b)))
  | carriageAt b occ =>
    exact guarded h (State.keeps_sampled_act occ (Part.sound_unlessHalted (Part.sound_onCarriageAt b)))
  | travelDeadline occ => cases h; exact State.keeps_sampled_act occ (Part.sound_unlessHalted Part.sound_onTravelDeadline)
  | stitchDone => cases h; exact State.keeps_act (Part.sound_unlessHalted Part.sound_onStitchDone _)
  | stitchCycleDeadline => cases h; exact State.keeps_act (Part.sound_unlessHalted Part.sound_onStitchCycleDeadline _)
  | carriageHome occ => cases h; exact State.keeps_sampled_act occ (Part.sound_unlessHalted Part.sound_onCarriageHome)
  | homingDeadline occ => cases h; exact State.keeps_sampled_act occ (Part.sound_unlessHalted Part.sound_onHomingDeadline)
  | slipFed => cases h; exact State.keeps_act (Part.sound_unlessHalted Part.sound_onSlipFed _)
  | slipFeedDeadline => cases h; exact State.keeps_act (Part.sound_unlessHalted Part.sound_onSlipFeedDeadline _)
  | slipLow on => cases h; exact State.keeps_act (ignored (Part.sound_onSlipLow on))
  | slipOut on => cases h; exact State.keeps_act (ignored fun _ => Part.sound_of_same rfl rfl)
  | arrival place => exact guarded h (State.keeps_act (Part.sound_unlessHalted (Part.sound_arrive place) _))
  | carryDeadline => cases h; exact State.keeps_act (Part.sound_unlessHalted Part.sound_onCarryDeadline _)
  | overflowEmptied => cases h; exact State.keeps_act (ignored Part.sound_onOverflowEmptied)
  | collected d => exact guarded h (State.keeps_act (ignored (Part.sound_onCollected d)))
  | transportReady => cases h; exact State.keeps_act (Part.sound_onTransportReady _)
  | wakingDeadline => cases h; exact State.keeps_act (Part.sound_onWakingDeadline _)
  | idleTimerExpiry => cases h; exact State.keeps_act (Part.sound_onIdleTimerExpiry _)
  | doorOpened =>
    cases h
    exact State.keeps_act (ignored Part.sound_onDoorOpened)
  | doorClosed => cases h; exact State.keeps_act (ignored fun _ => Part.sound_of_same rfl rfl)
  | keyOn =>
    cases h
    exact State.keeps_act (ignored Part.sound_onKeyOn)
  | keyOff => cases h; exact State.keeps_act (ignored fun _ => Part.sound_of_same rfl rfl)

/-- What every step keeps. -/
theorem step_keeps {s t : State} (h : step s = .next t) : s.Keeps t := by
  unfold step at h
  split at h
  · cases h
    exact ⟨⟨Part.sound_of_same rfl rfl, id⟩, id⟩
  · next c rest _ =>
    have := exec_keeps h
    exact ⟨⟨this.sound.part, this.sound.settled⟩, this.bounded⟩

/-! ## The invariants of the values -/

/-- An invariant that every listed change keeps is kept along a chain of them. -/
theorem Part.Evolves.invariant {I : Vitals → Prop} (hI : ∀ v w, Vitals.Change v w → I v → I w) {p q : Part} (h : p.Evolves q)
    (hp : I p.vitals) : I q.vitals := by
  unfold Part.Evolves at h
  generalize q.vitals = w at h
  induction h with
  | refl => exact hp
  | tail _ c ih => exact hI _ _ c ih

/-- R38, R56. -/
def Vitals.Accounted (v : Vitals) : Prop := v.entries = v.account.entered ∧ v.account.entered = v.account.held

theorem Vitals.Change.accounted {v w : Vitals} (c : v.Change w) (h : v.Accounted) : w.Accounted := by
  obtain ⟨h1, h2⟩ := h
  cases c with
  | move he hh => exact ⟨h1.trans he.symm, by rw [he, hh, h2]⟩
  | sheet he hh => exact ⟨by rw [he, h1], by rw [he, hh, h2]⟩
  | restart => exact ⟨rfl, rfl⟩
  | powerOn => exact ⟨rfl, rfl⟩
  | _ => exact ⟨h1, h2⟩

/-- R132, R139 to R142. -/
structure Vitals.Moded (v : Vitals) : Prop where
  resume : v.resumeFlag = true → v.mode = .service
  waking : v.wakingDeadline.isSome = true ↔ v.mode = .waking
  idle   : v.idleTimer.isSome = true → v.mode = .automatic
  park   : v.parkPending = true → v.mode = .automatic ∨ v.mode = .waking

theorem Vitals.Change.moded {v w : Vitals} (c : v.Change w) (h : v.Moded) : w.Moded := by
  obtain ⟨resume, waking, idle, park⟩ := h
  cases c with
  | idleTimer hm => exact ⟨resume, waking, fun _ => hm, park⟩
  | parkPending hm => exact ⟨resume, waking, idle, hm⟩
  | resumeFlag hm => exact ⟨hm, waking, idle, park⟩
  | wake hm => constructor <;> simp_all
  | ready hm => constructor <;> simp_all
  | park hm => constructor <;> simp_all
  | started hm => constructor <;> simp_all
  | resumed hm => constructor <;> simp_all
  | service => constructor <;> simp_all
  | halt => constructor <;> simp_all
  | restart => constructor <;> simp_all
  | powerOn => constructor <;> simp_all
  | _ => exact ⟨resume, waking, idle, park⟩

/-- R74, R87, R141, R147, R50. -/
structure Vitals.Ranged (v : Vitals) : Prop where
  stock : ∀ c (hc : c < Config.numStocks), v.stock[c].Ok
  wire  : v.wire ≤ wireLimit
  idle  : IdleTimeOk v.idleTime
  later : v.later ≤ 255
  purge : v.purgeCount ≤ 65535

theorem powerOnStock_ok (c : Nat) (hc : c < Config.numStocks) : powerOnStock[c].Ok := by
  unfold powerOnStock StockEntry.Ok
  rw [Vector.getElem_set]
  split
  · decide
  · simp

theorem Vitals.Change.ranged {v w : Vitals} (c : v.Change w) (h : v.Ranged) : w.Ranged := by
  obtain ⟨stock, wire, idle, later, purge⟩ := h
  cases c with
  | purgeCount hn => exact ⟨stock, wire, idle, later, hn⟩
  | stock d hd he =>
    refine ⟨fun c hc => ?_, wire, idle, later, purge⟩
    dsimp only
    rw [Vector.getElem_set]
    split
    · exact he
    · exact stock c hc
  | wire hw => exact ⟨stock, hw.elim (·.trans wire) id, idle, later, purge⟩
  | idleTime hn => exact ⟨stock, wire, hn, later, purge⟩
  | later hn => exact ⟨stock, wire, idle, hn, purge⟩
  | restart => exact ⟨stock, wire, idle, later, Nat.zero_le _⟩
  | powerOn => exact ⟨powerOnStock_ok, Nat.zero_le _, .inr (by decide), Nat.zero_le _, Nat.zero_le _⟩
  | _ => exact ⟨stock, wire, idle, later, purge⟩

theorem modeOk_iff (s : State) : ModeOk s ↔ s.part.Settled ∧ s.part.vitals.Moded :=
  ⟨fun h => ⟨h.settled, h.resume, h.waking, h.idle, h.park⟩, fun ⟨hs, h⟩ => ⟨hs, h.resume, h.waking, h.idle, h.park⟩⟩

theorem rangesOk_iff (s : State) : RangesOk s ↔ s.part.Settled ∧ s.part.vitals.Ranged := by
  have stocks : (∀ e ∈ s.part.stock.toList, e.defined = true → 50 ≤ e.caliper ∧ e.caliper ≤ 400) ↔
      ∀ c (hc : c < Config.numStocks), s.part.stock[c].Ok := by
    refine ⟨fun h c hc => h _ (by simp), fun h e he => ?_⟩
    obtain ⟨c, hc, rfl⟩ := List.getElem_of_mem he
    exact h c (by simpa using hc)
  exact ⟨fun h => ⟨h.settled, stocks.mp h.stock, h.wire, h.idle, h.later, h.purge⟩,
    fun ⟨hs, h⟩ => ⟨hs, stocks.mpr h.stock, h.wire, h.idle, h.later, h.purge⟩⟩

/-! ## The obligations -/

/-- Settles O56: every operation of the press link keeps its bounds, and every act ends by handing over what it raised. -/
theorem everyStepKeepsTheLinkBounds : Obligations.EveryStepKeepsTheLinkBounds := by
  intro s t h hs
  have keeps := step_keeps hs
  obtain ⟨settled, bounded⟩ := (linkOk_iff s).mp h
  exact (linkOk_iff t).mpr ⟨keeps.sound.settled settled, keeps.bounded bounded⟩

/-- Settles O57: a step is a chain of changes each of which keeps the account balanced. -/
theorem everyStepBalancesTheSheets : Obligations.EveryStepBalancesTheSheets := fun _ _ h hs =>
  (step_keeps hs).sound.part.evolves.invariant (I := Vitals.Accounted) (fun _ _ c => c.accounted) h

/-- Settles O58: a step is a chain of changes each of which keeps the modes' flags and timers and the ranges. -/
theorem everyStepKeepsModesAndRanges : Obligations.EveryStepKeepsModesAndRanges := by
  intro s t hs
  have keeps := (step_keeps hs).sound
  refine ⟨fun h => ?_, fun h => ?_⟩
  · obtain ⟨settled, moded⟩ := (modeOk_iff s).mp h
    exact (modeOk_iff t).mpr ⟨keeps.settled settled, keeps.part.evolves.invariant (fun _ _ c => c.moded) moded⟩
  · obtain ⟨settled, ranged⟩ := (rangesOk_iff s).mp h
    exact (rangesOk_iff t).mpr ⟨keeps.settled settled, keeps.part.evolves.invariant (fun _ _ c => c.ranged) ranged⟩

/-- Settles O59: every act keeps the runs in their slots. -/
theorem everyStepKeepsTheSlots : Obligations.EveryStepKeepsTheSlots := fun s t h hs =>
  (slotsOk_iff t).mpr ((step_keeps hs).sound.part.slots ((slotsOk_iff s).mp h))

/-- Settles O60: the state after reset, read field by field. -/
theorem resetMeetsTheInvariants : Obligations.ResetMeetsTheInvariants := by
  have linkBounds : State.reset.link.Bounded :=
    ⟨trivial, Nat.zero_le _, fun _ hb => absurd hb List.not_mem_nil, by decide, Nat.zero_le _, Nat.zero_le _⟩
  have modes : State.reset.part.vitals.Moded := ⟨by decide, by decide, by decide, by decide⟩
  have ranges : State.reset.part.vitals.Ranged :=
    ⟨powerOnStock_ok, Nat.zero_le _, .inr (by decide), Nat.zero_le _, Nat.zero_le _⟩
  refine ⟨(linkOk_iff _).mpr ⟨rfl, linkBounds⟩, ⟨rfl, rfl⟩, (modeOk_iff _).mpr ⟨rfl, modes⟩,
    (rangesOk_iff _).mpr ⟨rfl, ranges⟩, (slotsOk_iff _).mpr ⟨⟨?_, ?_, ?_⟩, fun h => absurd h (by decide)⟩⟩
  · exact fun _ hq => absurd hq (Option.not_mem_none _)
  · exact fun _ hq => absurd hq (Option.not_mem_none _)
  · exact fun _ hq => absurd hq List.not_mem_nil

/-- Settles O1: with a command at the front of the queue the step is that command's. -/
theorem stepTakesTheFrontCommand : Obligations.StepTakesTheFrontCommand := by
  intro s c rest h
  unfold step
  rw [h]

end Sys2Proof.Machine
end

section
/-! Requests on a free press link: what the checks of R156 let through, and the requests that query, set options, name jobs, post
runs, clear the fault record, park and restart. -/

namespace Sys2Proof.Machine

theorem drawerOk_iff {d : Nat} : drawerOk d = true ↔ 1 ≤ d ∧ d ≤ 20 := by simp [drawerOk, Config.numDrawers]

/-! ## Requests past the checks of R156 -/

/-- R145: the requests on jobs, runs, stocks and drawers are accepted in the serving modes. -/
theorem Mode.Serving.accepts {m : Mode} (h : m.Serving) {r : RequestKind}
    (hr : r ∈ [RequestKind.jobOpen, .jobClose, .jobHold, .jobRelease, .jobCancel, .runWithdraw, .stockSet, .drawerLock,
      .drawerUnlock]) : m ∈ acceptingModes r := by
  obtain ⟨h1, h2⟩ := h
  revert h1 h2 hr
  cases m <;> cases r <;> decide

/-- R145: the requests that HALTED alone refuses. -/
theorem Mode.accepts_of_ne_halted {m : Mode} (h : m ≠ .halted) {r : RequestKind}
    (hr : r ∈ [RequestKind.optionSet, .attnClear, .wireLoad]) : m ∈ acceptingModes r := by
  revert h hr
  cases m <;> cases r <;> decide

/-- R145: the requests accepted in every mode. -/
theorem Mode.accepts_any (m : Mode) {r : RequestKind} (hr : r ∈ [RequestKind.identify, .stateQuery, .faultClear, .restart]) :
    m ∈ acceptingModes r := by
  revert hr
  cases m <;> cases r <;> decide

variable {s : State} {r : RequestKind} {f : List Byte}

/-- R156 check 5: a request whose own rule accepts it and raises nothing. -/
theorem Free.accepted (h : Free s) (tag : Byte) (hf : f.length ≤ 248) (hm : s.part.ctl.mode ∈ acceptingModes r)
    (hl : lengthOk r f = true) {q : Part} {res : Result} {fs : ReplyFields} (hq : q.Settled)
    (e : s.part.act s.link r f = q.accept res fs) :
    s.requestArrives r tag f = ({ s with part := q } : State).answered r tag res fs :=
  State.request_quiet h tag hf q res fs hq ((Part.request_of_checked s.link hm hl).trans e)

/-- R156 check 5: a request whose own rule accepts it and raises notices. -/
theorem Free.acceptedRaising (h : Free s) (tag : Byte) (hf : f.length ≤ 248) (hm : s.part.ctl.mode ∈ acceptingModes r)
    (hl : lengthOk r f = true) {q : Part} {res : Result} {fs : ReplyFields} {ns : List Notice} (hq : q.Settled)
    (e : s.part.act s.link r f = Part.accept { q with out := { reset := false, notices := ns } } res fs)
    (room : ns = [] ∨ s.link.outbox.length + ns.length ≤ 32) :
    s.requestArrives r tag f = (({ s with part := q } : State).answered r tag res fs).queued ns :=
  State.request_eq h tag hf q res fs ns hq ((Part.request_of_checked s.link hm hl).trans e) room

/-- R156 check 5: a request that its own rule refuses. -/
theorem Free.refused (h : Free s) (tag : Byte) (hf : f.length ≤ 248) (hm : s.part.ctl.mode ∈ acceptingModes r)
    (hl : lengthOk r f = true) {e : Result} (he : s.part.act s.link r f = s.part.refuse e) :
    s.requestArrives r tag f = s.answered r tag e .empty :=
  State.requestArrives_refused h tag hf ((Part.request_of_checked s.link hm hl).trans he)

/-! ## O3: WRONG_MODE -/

theorem Part.query_ne_wrongMode {p : Part} {l : Link} {a b : Nat} {e : Result} (h : p.query l a b = .error e) : e ≠ .wrongMode := by
  unfold Part.query Part.queryJob Part.queryBin Part.queryDrawer at h
  dsimp only at h
  rintro rfl
  revert h
  (repeat' split) <;> simp

theorem Part.named_ne_wrongMode {p : Part} {f : List Byte} {e : Result} (h : p.named f = .error e) : e ≠ .wrongMode := by
  unfold Part.named at h
  rintro rfl
  revert h
  (repeat' split) <;> simp

theorem Part.checkPost_ne_wrongMode {p : Part} {q : RunPostFields} {e : Result} (h : p.checkPost q = .error e) :
    e ≠ .wrongMode := by
  unfold Part.checkPost at h
  rintro rfl
  revert h
  (repeat' split) <;> simp

theorem DrawerMap.checkLock_ne_wrongMode {m : DrawerMap} {d dest : Nat} {e : Result} (h : m.checkLock d dest = some e) :
    e ≠ .wrongMode := by
  unfold DrawerMap.checkLock at h
  rintro rfl
  revert h
  dsimp only
  (repeat' split) <;> simp

/-- R145: past the check of the mode no request's own rule answers WRONG_MODE. -/
theorem Part.act_ne_wrongMode (p : Part) (l : Link) (f : List Byte) (hm : p.ctl.mode ∈ acceptingModes r) :
    (p.act l r f).reply.result ≠ .wrongMode := by
  cases r with
  | identify | restart | faultClear => simp [Part.act, Part.identify, Part.restartRequest, Part.faultClear, Part.accept]
  | stateQuery =>
    change (p.stateQuery l f).reply.result ≠ _
    unfold Part.stateQuery
    split
    · simp [Part.accept]
    · next h => exact Part.query_ne_wrongMode h
  | optionSet =>
    change (p.optionSet f).reply.result ≠ _
    unfold Part.optionSet Part.setIdleTime
    dsimp only [Part.accept, Part.refuse]
    (repeat' split) <;> simp
  | jobOpen =>
    change (p.jobOpen f).reply.result ≠ _
    unfold Part.jobOpen
    dsimp only [Part.accept, Part.refuse]
    (repeat' split) <;> simp
  | jobClose =>
    change (p.jobClose f).reply.result ≠ _
    unfold Part.jobClose Part.closeJob
    split
    · next h => exact Part.named_ne_wrongMode h
    · dsimp only [Part.accept, Part.refuse]
      (repeat' split) <;> simp
  | jobHold =>
    change (p.jobHold f).reply.result ≠ _
    unfold Part.jobHold Part.holdJob
    split
    · next h => exact Part.named_ne_wrongMode h
    · dsimp only [Part.accept, Part.refuse]
      split <;> simp
  | jobRelease =>
    change (p.jobRelease f).reply.result ≠ _
    unfold Part.jobRelease
    split
    · next h => exact Part.named_ne_wrongMode h
    · dsimp only [Part.accept, Part.refuse]
      split <;> simp
  | jobCancel =>
    change (p.jobCancel f).reply.result ≠ _
    unfold Part.jobCancel
    split
    · next h => exact Part.named_ne_wrongMode h
    · dsimp only [Part.accept, Part.refuse]
      split <;> simp
  | runPost =>
    change (p.runPost f).reply.result ≠ _
    unfold Part.runPost
    dsimp only
    split
    · next h => exact Part.checkPost_ne_wrongMode h
    · dsimp only [Part.accept, RunPostFields.result]
      split <;> simp
  | runWithdraw =>
    change (p.runWithdraw f).reply.result ≠ _
    unfold Part.runWithdraw Part.cutCurrent Part.dropPending
    dsimp only [Part.accept, Part.refuse]
    (repeat' split) <;> simp
  | stockSet =>
    change (p.stockSet f).reply.result ≠ _
    unfold Part.stockSet
    dsimp only [Part.accept, Part.refuse]
    (repeat' split) <;> simp
  | wireLoad =>
    change (p.wireLoad f).reply.result ≠ _
    unfold Part.wireLoad
    dsimp only [Part.accept]
    split <;> simp
  | drawerLock =>
    change (p.drawerLock f).reply.result ≠ _
    unfold Part.drawerLock
    dsimp only
    split
    · next h => exact DrawerMap.checkLock_ne_wrongMode h
    · split <;> simp [Part.accept]
  | drawerUnlock =>
    change (p.drawerUnlock f).reply.result ≠ _
    unfold Part.drawerUnlock
    dsimp only [Part.accept, Part.refuse]
    (repeat' split) <;> simp
  | attnClear =>
    change (p.attnClear f).reply.result ≠ _
    unfold Part.attnClear
    split <;> simp [Part.accept, Part.refuse]
  | resume =>
    change p.resume.reply.result ≠ _
    unfold Part.resume Part.beginResume
    dsimp only [Part.accept, Part.refuse]
    (repeat' split) <;> simp
  | park =>
    change p.parkRequest.reply.result ≠ _
    have hm : p.ctl.mode ∈ [Mode.automatic, .parked, .waking] := hm
    unfold Part.parkRequest
    dsimp only [Part.accept, Part.refuse]
    split
    · split <;> simp
    · simp
    · simp
    all_goals simp_all

/-- R145, R156 checks 3 to 5: in a mode that accepts it no request is answered WRONG_MODE. -/
theorem Part.request_ne_wrongMode (p : Part) (l : Link) (f : List Byte) (hm : p.ctl.mode ∈ acceptingModes r) :
    (p.request l r f).reply.result ≠ .wrongMode := by
  cases hl : lengthOk r f with
  | false => rw [Part.request_of_badLength l hm hl]; simp [Part.refuse]
  | true => rw [Part.request_of_checked l hm hl]; exact p.act_ne_wrongMode l f hm

@[simp] theorem State.sensed_mode (s : State) (r : RequestKind) (occ : Occupancy) :
    (s.sensed r occ).part.ctl = s.part.ctl := by
  unfold State.sensed
  split <;> rfl

/-- Settles O3: the check of the mode is the first of R156 for a request, and no later one answers WRONG_MODE. -/
theorem requestsByMode : Obligations.RequestsByMode := by
  intro s r tag f occ hfree hf
  have hfree := hfree.sensed r occ
  rw [exec_requestCommand, ← State.sensed_mode s r occ]
  refine ⟨fun hm => ?_, fun hm => ?_⟩
  · exact congrArg Host.Outcome.next
      (State.requestArrives_refused hfree tag hf (Part.request_of_wrongMode _ f hm))
  · exact ⟨_, _, rfl, State.requestArrives_sending hfree r tag hf, Part.request_ne_wrongMode _ _ _ hm⟩

/-! ## O4: unknown kinds and wrong lengths -/

/-- R156 check 1: a frame that names no request is answered, and changes nothing. -/
theorem Free.unknownFrame (h : Free s) {body : List Byte} (h0 : body ≠ []) (hl : body.length ≤ 250) {a : Answer}
    (e : s.answerTo body = (s.part, a)) :
    exec (.unknownKind body) s = .next { s with link := { s.link with sending := some (.answer a) } } := by
  have settled : s.part = { s.part with out := { reset := false, notices := [] } } := by
    have := h.settled
    unfold Part.Settled at this
    rw [← this]
  refine congrArg Host.Outcome.next ?_
  refine (State.frameArrives_eq h h0 hl s.part a [] h.settled ?_ (.inl rfl)).trans (State.queued_nil _)
  rw [e, ← settled]

/-- 11 section 11.5: the kind bytes that are no request. -/
theorem requestOf_eq_none {k : Byte} (h : k = 0 ∨ 0x13 < k.toNat) : requestOf k = none := by
  have h : k.toNat = 0 ∨ 0x13 < k.toNat := h.imp_left fun h => by rw [h]; rfl
  unfold requestOf
  split <;> simp_all

/-- 11 section 11.5: the check of the length as the table of bodies gives it. -/
theorem lengthOk_eq_false (r : RequestKind) (f : List Byte)
    (h : f.length + 2 ≠ bodyLength r f ∨ (r = .runPost ∧ f.length < 6) ∨ (r = .attnClear ∧ f.length < 1)) :
    lengthOk r f = false := by
  rw [← Bool.not_eq_true]
  intro hl
  cases r <;>
    simp only [lengthOk, bodyLength, beq_iff_eq, Bool.and_eq_true, decide_eq_true_eq, reduceCtorEq, false_and, or_false,
      true_and, false_or, ne_eq] at h hl <;>
    omega

/-- Settles O4: the three checks of R156 before a request's own rule. -/
theorem requestFramesAreChecked : Obligations.RequestFramesAreChecked := by
  intro s r k tag f occ hfree hf
  refine ⟨hfree.unknownFrame (by simp) (by simp) rfl, fun hk => ?_, fun hm hl => ?_⟩
  · refine hfree.unknownFrame (by simp) (by simp; omega) ?_
    simp only [State.answerTo, requestOf_eq_none hk]
  · rw [exec_requestCommand]
    have hm : (s.sensed r occ).part.ctl.mode ∈ acceptingModes r := by simpa using hm
    exact congrArg Host.Outcome.next
      (State.requestArrives_refused (hfree.sensed r occ) tag hf (Part.request_of_badLength _ hm (lengthOk_eq_false r f hl)))

/-! ## O5: refusals -/

/-- Settles O5: the answer in transmission is the request's, and a refusing act leaves the part. -/
theorem aRefusedRequestChangesNothing : Obligations.ARefusedRequestChangesNothing := by
  intro s t r tag f occ a hfree hf he hs hcode
  have hfree := hfree.sensed r occ
  rw [exec_requestCommand] at he
  obtain rfl := Host.Outcome.next.inj he
  rw [State.requestArrives_sending hfree r tag hf] at hs
  obtain rfl := Sent.answer.inj (Option.some.inj hs)
  refine State.requestArrives_refused hfree tag hf ?_
  generalize hx : (s.sensed r occ).part.request (s.sensed r occ).link r f = x at hcode ⊢
  obtain ⟨hp, hfields⟩ : x.part = (s.sensed r occ).part ∧ x.reply.fields = .empty := by
    rw [← hx] at hcode ⊢
    exact Part.request_fair _ _ _ _ hcode
  obtain ⟨q, res, fs⟩ := x
  simp only at hp hfields
  subst hp hfields
  rfl

/-! ## O6: STATE_QUERY -/

/-- Settles O6: the contents of each subject, read off the records. -/
theorem stateQueryShowsTheRecords : Obligations.StateQueryShowsTheRecords := by
  intro s tag f hfree hf p shows refuses n
  have hm := s.part.ctl.mode.accepts_any (r := .stateQuery) (by decide)
  have hl : lengthOk .stateQuery f = true := by simp [lengthOk, hf]
  have shown {c : Contents} (h : p.query s.link (byteAt f 0) n = .ok c) : shows c := by
    refine congrArg Host.Outcome.next (hfree.accepted tag (by omega) hm hl hfree.settled ?_)
    simp only [Part.act, Part.stateQuery, p, n] at h ⊢
    rw [h]
  have refused {e : Result} (h : p.query s.link (byteAt f 0) n = .error e) : refuses e := by
    refine congrArg Host.Outcome.next (hfree.refused tag (by omega) hm hl ?_)
    simp only [Part.act, Part.stateQuery, p, n] at h ⊢
    rw [h]
  refine ⟨fun h => ?part, fun h => ?job, fun h => ?bin, fun h => ?drawer, fun h => ?overflow, fun h => ?runs, fun h => ?fault,
    fun h => ?attention, fun h => ?account, fun h => ?link, fun h => ?other⟩
  case part => exact shown (by rw [h]; rfl)
  case job =>
    refine ⟨fun j hj => shown ?_, fun hj => refused ?_⟩ <;> simp [h, Part.query, Part.queryJob, hj]
  case bin =>
    refine ⟨fun hn hb => shown ?_, fun hn hb => shown ?_, fun hn => refused ?_⟩
    · simp [h, Part.query, Part.queryBin, binOk, hn, hb]
    · simp [h, Part.query, Part.queryBin, binOk, hn, hb]
    · have : binOk n = false := by rw [← Bool.not_eq_true, binOk_iff]; omega
      simp [h, Part.query, Part.queryBin, this]
  case drawer =>
    refine ⟨fun hn => shown ?_, fun hn => shown ?_, fun hn => refused ?_⟩
    · have hd : drawerOk n = true := drawerOk_iff.mpr (by omega)
      have hx : isFlexible n = false := by simp [isFlexible]; omega
      simp [h, Part.query, Part.queryDrawer, DrawerMap.recency, hd, hx, rowOf]
    · have hd : drawerOk n = true := drawerOk_iff.mpr (by omega)
      have hx : isFlexible n = true := by simp [isFlexible]; omega
      simp [h, Part.query, Part.queryDrawer, DrawerMap.recency, hd, hx]
    · have hd : drawerOk n = false := by rw [← Bool.not_eq_true, drawerOk_iff]; omega
      simp [h, Part.query, Part.queryDrawer, hd]
  case overflow => exact shown (by rw [h]; rfl)
  case runs => exact shown (by rw [h]; rfl)
  case fault => exact shown (by rw [h]; rfl)
  case attention => exact shown (by rw [h]; rfl)
  case account => exact shown (by rw [h]; rfl)
  case link => exact shown (by rw [h]; simp [Part.query, hfree.buffer])
  case other =>
    refine refused ?_
    unfold Part.query
    split <;> first | omega | rfl

end Sys2Proof.Machine
end

section
/-! Options, the fault record, PARK and RESTART, and the refusals and acts of the requests that name a job. -/

namespace Sys2Proof.Machine

/-! ## O7: OPTION_SET -/

/-- R141, R162: the stored idle time, as the rule's cases. -/
theorem storedIdleTime_eq (v : Nat) :
    storedIdleTime v = if v = 0 then 0 else if v < 30 then 30 else if 3600 < v then 3600 else v := by
  unfold storedIdleTime
  split
  · rfl
  · exact clamp_eq_ite (by decide) v

theorem Part.setIdleTime_of_idle {p : Part} (hm : p.ctl.mode = .automatic) (hi : p.IdleCond) (v : Nat) :
    p.setIdleTime v =
      Part.accept
        { p with ctl := { p.ctl with
            idleTime := storedIdleTime v
            idleTimer := if storedIdleTime v = 0 then none else some (p.now + 1000 * storedIdleTime v) } }
        (if storedIdleTime v = v then .ok else .okAdjusted) (.option 0 (storedIdleTime v)) := by
  have idle : ({ p with ctl := { p.ctl with idleTime := storedIdleTime v } } : Part).idle = true :=
    (Part.idle_iff _).mpr ⟨hi.current, hi.pending, hi.finishing, hi.tickets, hi.stitches, hi.ejects, hi.carriage, hi.conveyor⟩
  exact congrArg (fun x : Part => x.accept _ _) (if_pos ⟨hm, idle⟩)

theorem Part.setIdleTime_of_not {p : Part} (h : p.ctl.mode ≠ .automatic ∨ ¬ p.IdleCond) (v : Nat) :
    p.setIdleTime v =
      Part.accept { p with ctl := { p.ctl with idleTime := storedIdleTime v } }
        (if storedIdleTime v = v then .ok else .okAdjusted) (.option 0 (storedIdleTime v)) := by
  have notIdle : ¬ (p.ctl.mode = .automatic ∧ ({ p with ctl := { p.ctl with idleTime := storedIdleTime v } } : Part).idle) := by
    rintro ⟨hm, hi⟩
    obtain ⟨h1, h2, h3, h4, h5, h6, h7, h8⟩ := (Part.idle_iff _).mp hi
    exact h.elim (fun k => k hm) fun k => k ⟨h1, h2, h3, h4, h5, h6, h7, h8⟩
  simp only [Part.setIdleTime, if_neg notIdle]

/-- R162: the two fatal actions. -/
theorem fatalActionOf_of_le {n : Nat} (h : n ≤ 1) : fatalActionOf n = some (if n = 0 then .halt else .restart) := by
  interval_cases n <;> rfl

theorem fatalActionOf_of_lt {n : Nat} (h : 1 < n) : fatalActionOf n = none := by
  unfold fatalActionOf
  split <;> first | omega | rfl

/-- R162: an option above 2 is refused. -/
theorem Part.optionSet_of_badOption (p : Part) {f : List Byte} (h : 2 < byteAt f 0) : p.optionSet f = p.refuse .badField := by
  simp only [Part.optionSet]
  split <;> first | omega | rfl

/-- Settles O7: the three options in turn, the idle timer by the mode and the idle condition. -/
theorem optionSetStoresTheOption : Obligations.OptionSetStoresTheOption := by
  intro s tag f hfree hhalt hf v stored timer withCtl withFaults res
  have hm := Mode.accepts_of_ne_halted hhalt (r := .optionSet) (by decide)
  have hl : lengthOk .optionSet f = true := by simp [lengthOk, hf]
  have hs : storedIdleTime v = stored := storedIdleTime_eq v
  have accepts {q : Part} {e : Result} {x : ReplyFields} (hq : q.Settled) (h : s.part.optionSet f = q.accept e x) :
      exec (.optionSet tag f) s = .next (({ s with part := q } : State).answered .optionSet tag e x) :=
    congrArg Host.Outcome.next (hfree.accepted tag (by omega) hm hl hq h)
  have refuses (h : s.part.optionSet f = s.part.refuse .badField) :
      exec (.optionSet tag f) s = .next (s.answered .optionSet tag .badField .empty) :=
    congrArg Host.Outcome.next (hfree.refused tag (by omega) hm hl h)
  refine ⟨fun h0 => ⟨fun ha hi => ?idle, fun hn => ?busy⟩, fun h1 hv => ?fatal, fun h2 hv => ?mask, fun h => ?bad⟩
  case idle =>
    refine accepts (by exact hfree.settled) ?_
    simp only [Part.optionSet, h0]
    rw [Part.setIdleTime_of_idle ha hi, hs]
  case busy =>
    refine accepts (by exact hfree.settled) ?_
    simp only [Part.optionSet, h0]
    rw [Part.setIdleTime_of_not hn, hs]
  case fatal =>
    refine accepts (by exact hfree.settled) ?_
    have action : fatalActionOf (wordAt f 1) = some (if v = 0 then .halt else .restart) := fatalActionOf_of_le hv
    simp only [Part.optionSet, h1, action]
    rfl
  case mask =>
    refine accepts (by exact hfree.settled) ?_
    simp only [Part.optionSet, h2]
    exact if_pos hv
  case bad =>
    refine refuses ?_
    rcases h with ⟨h1, hv⟩ | ⟨h2, hv⟩ | h
    · have none : fatalActionOf (wordAt f 1) = none := fatalActionOf_of_lt hv
      simp only [Part.optionSet, h1, none]
    · simp only [Part.optionSet, h2]
      exact if_neg (by omega)
    · exact s.part.optionSet_of_badOption h

/-! ## O9: refusals of the requests on jobs -/

theorem priorityOf_isSome (n : Nat) : (priorityOf n).isSome = true ↔ n ≤ 1 := by
  unfold priorityOf
  split <;> simp_all; omega

theorem patternOf_isSome (n : Nat) : (patternOf n).isSome = true ↔ n ≤ 2 := by
  unfold patternOf
  split <;> simp_all; omega

theorem disorderOf_isSome (n : Nat) : (disorderOf n).isSome = true ↔ n ≤ 1 := by
  unfold disorderOf
  split <;> simp_all; omega

theorem wireRuleOf_isSome (n : Nat) : (wireRuleOf n).isSome = true ↔ n ≤ 1 := by
  unfold wireRuleOf
  split <;> simp_all; omega

/-- R5: a record is given exactly where every field is in range. -/
theorem JobOpenFields.record_isSome (j : JobOpenFields) :
    j.record.isSome = true ↔
      (1 ≤ j.number ∧ 1 ≤ j.copies ∧ j.copies ≤ 48 ∧ 1 ≤ j.dest ∧ j.dest ≤ 4095) ∧
      j.priority ≤ 1 ∧ j.pattern ≤ 2 ∧ j.disorder ≤ 1 ∧ j.wireRule ≤ 1 := by
  rw [← priorityOf_isSome, ← patternOf_isSome, ← disorderOf_isSome, ← wireRuleOf_isSome]
  unfold JobOpenFields.record
  split
  · simp
    omega
  · cases priorityOf j.priority <;> cases patternOf j.pattern <;> cases disorderOf j.disorder <;>
      cases wireRuleOf j.wireRule <;> simp
    omega

/-- R5: the record that JOB_OPEN opens carries the number sent. -/
theorem JobOpenFields.record_number {j : JobOpenFields} {k : Job} (h : j.record = some k) : k.number = j.number := by
  unfold JobOpenFields.record at h
  split at h
  · cases h
  · split at h
    · cases h
      rfl
    · cases h

theorem Part.jobOpen_of_record (p : Part) {f : List Byte} {j : Job} (h : (jobOpenFields f).record = some j) :
    p.jobOpen f =
      if (p.job? j.number).isSome then p.refuse .jobExists
      else if jobLimit ≤ p.jobs.jobs.length then p.refuse .tableFull
      else (p.admitJob j).accept .ok .empty := by
  simp only [Part.jobOpen, h]

theorem Part.named_of_zero (p : Part) {f : List Byte} (h : wordAt f 0 = 0) : p.named f = .error .badField := by
  simp [Part.named, h]

theorem Part.named_of_none {p : Part} {f : List Byte} (h : wordAt f 0 ≠ 0) (hj : p.job? (wordAt f 0) = none) :
    p.named f = .error .noSuchJob := by
  simp [Part.named, h, hj]

theorem Part.named_of_some {p : Part} {f : List Byte} {j : Job} (h : wordAt f 0 ≠ 0) (hj : p.job? (wordAt f 0) = some j) :
    p.named f = .ok j := by
  simp [Part.named, h, hj]

/-- R4: the four requests that name a job refuse as the naming does. -/
theorem Part.act_of_unnamed {p : Part} {f : List Byte} {e : Result} (h : p.named f = .error e) (l : Link) {r : RequestKind}
    (hr : r ∈ [RequestKind.jobClose, .jobHold, .jobRelease, .jobCancel]) : p.act l r f = p.refuse e := by
  simp only [List.mem_cons, List.not_mem_nil, or_false] at hr
  rcases hr with rfl | rfl | rfl | rfl
  · simp only [Part.act, Part.jobClose, h]
  · simp only [Part.act, Part.jobHold, h]
  · simp only [Part.act, Part.jobRelease, h]
  · simp only [Part.act, Part.jobCancel, h]

/-- Settles O9: the fields, then the table, in the order of the checks. -/
theorem jobRequestRefusals : Obligations.JobRequestRefusals := by
  intro s r tag f occ hfree hserve refuses
  have refused (hr : r ∈ [RequestKind.jobOpen, .jobClose, .jobHold, .jobRelease, .jobCancel]) (hl : lengthOk r f = true)
      (hf : f.length ≤ 248) {e : Result} (h : s.part.act s.link r f = s.part.refuse e) : refuses e := by
    have hm : s.part.ctl.mode ∈ acceptingModes r := hserve.accepts (by revert hr; cases r <;> decide)
    have notResume : s.sensed r occ = s := by
      unfold State.sensed
      exact if_neg (by rintro rfl; revert hr; decide)
    change exec (requestCommand r tag f occ) s = _
    rw [exec_requestCommand, notResume]
    exact congrArg Host.Outcome.next (hfree.refused tag hf hm hl h)
  refine ⟨?opens, fun hr hf => ?names⟩
  case opens =>
    rintro rfl hf bad
    have refused := @refused (by decide) (by simp [lengthOk, hf]) (by omega)
    have hbad : (jobOpenFields f).record.isSome = true ↔ ¬ bad := by
      rw [JobOpenFields.record_isSome]
      simp only [jobOpenFields, bad]
      omega
    have opened (h : ¬ bad) : ∃ j, (jobOpenFields f).record = some j ∧ j.number = wordAt f 0 := by
      obtain ⟨j, hj⟩ := Option.isSome_iff_exists.mp (hbad.mpr h)
      exact ⟨j, hj, JobOpenFields.record_number hj⟩
    refine ⟨fun h => refused ?_, fun h he => refused ?_, fun h hn hfull => refused ?_⟩
    · have hn : (jobOpenFields f).record = none := by
        rw [← Option.not_isSome_iff_eq_none, hbad]
        exact not_not.mpr h
      simp only [Part.act, Part.jobOpen, hn]
    · obtain ⟨j, hj, hnum⟩ := opened h
      refine (s.part.jobOpen_of_record hj).trans ?_
      rw [hnum, if_pos he]
    · obtain ⟨j, hj, hnum⟩ := opened h
      refine (s.part.jobOpen_of_record hj).trans ?_
      rw [hnum, hn, if_neg (by simp), if_pos (show jobLimit ≤ _ from hfull)]
  case names =>
    have refused := @refused (List.mem_cons_of_mem _ hr)
      (by revert hr; cases r <;> simp [lengthOk, hf]) (by omega)
    exact ⟨fun h => refused (Part.act_of_unnamed (s.part.named_of_zero h) _ hr),
      fun h hj => refused (Part.act_of_unnamed (Part.named_of_none h hj) _ hr)⟩

/-! ## O10 and O12: closes, holds and releases by the job's state -/

/-- A job named by its number has that number. -/
theorem Part.job?_number {p : Part} {n : Nat} {j : Job} (h : p.job? n = some j) : j.number = n := by
  have := List.find?_some h
  simpa using this

theorem Part.modJob_modJob (p : Part) (n : Nat) {f g : Job → Job} (hf : ∀ j, (f j).number = j.number) :
    (p.modJob n f).modJob n g = p.modJob n fun j => g (f j) := by
  unfold Part.modJob
  simp only [List.map_map]
  congr 2
  refine List.map_congr_left fun j _ => ?_
  by_cases h : j.number = n
  · simp [h, hf]
  · simp [h]

theorem Part.workInHand_iff (p : Part) (n : Nat) :
    p.workInHand n = true ↔
      ∃ r ∈ p.runs.current.toList ++ p.runs.pending.toList ++ p.runs.finishing, r.job = n := by
  simp only [Part.workInHand, RunCtl.live, List.any_eq_true, beq_iff_eq]

/-- R9: a close of a job with runs in hand waits for them. -/
theorem Part.closeJob_of_workInHand {p : Part} {j : Job} (h : p.workInHand j.number = true) :
    p.closeJob j =
      (p.modJob j.number fun i => { i with closeRequested := true, state := .closing }).accept .okDeferred .empty := by
  unfold Part.closeJob
  extract_lets q
  have work : q.workInHand j.number = true := h
  rw [if_pos work]
  exact congrArg (fun x : Part => x.accept .okDeferred .empty) (p.modJob_modJob j.number fun _ => rfl)

/-- Settles O10: the close by the job's state. -/
theorem jobCloseWithWorkInHand : Obligations.JobCloseWithWorkInHand := by
  intro s tag f j hfree hserve hf hn hj
  have hm := hserve.accepts (r := .jobClose) (by decide)
  have hl : lengthOk .jobClose f = true := by simp [lengthOk, hf]
  have named := Part.named_of_some hn hj
  refine ⟨fun hst hwork => ?deferred, fun hst => ?again, fun hst => ?refused⟩
  case deferred =>
    refine congrArg Host.Outcome.next (hfree.accepted tag (by omega) hm hl (by exact hfree.settled) ?_)
    have work := Part.closeJob_of_workInHand ((s.part.workInHand_iff j.number).mpr hwork)
    simp only [List.mem_cons, List.not_mem_nil, or_false] at hst
    rcases hst with hst | hst | hst <;> simp only [Part.act, Part.jobClose, named, hst, work]
  case again =>
    refine congrArg Host.Outcome.next (hfree.accepted tag (by omega) hm hl hfree.settled ?_)
    simp only [Part.act, Part.jobClose, named, hst]
  case refused =>
    refine congrArg Host.Outcome.next (hfree.refused tag (by omega) hm hl ?_)
    simp only [List.mem_cons, List.not_mem_nil, or_false] at hst
    rcases hst with hst | hst | hst <;> simp only [Part.act, Part.jobClose, named, hst]

/-- R12, R16: withdrawing the PENDING run of a job takes it out of its slot. -/
theorem Part.withdrawPendingOf_eq (p : Part) (n : Nat) :
    p.withdrawPendingOf n =
      ({ p with runs := { p.runs with pending := p.runs.pending.filter fun r => r.job ≠ n } },
        (p.runs.pending.filter fun r => r.job = n).map Run.id) := by
  unfold Part.withdrawPendingOf
  obtain ⟨now, lines, ctl, jobs, ⟨current, pending, finishing, nextId⟩, path, bins, stock, carriage, conv, drawers, faults, out⟩ := p
  cases pending with
  | none => rfl
  | some r => by_cases h : r.job = n <;> simp [h, Option.filter]

/-- Settles O12: a hold withdraws the PENDING run and waits for the CURRENT one; a release ends it. -/
theorem jobHoldAndReleaseByState : Obligations.JobHoldAndReleaseByState := by
  intro s tag f j hfree hroom hserve hf hn hj out left
  have hmh := hserve.accepts (r := .jobHold) (by decide)
  have hmr := hserve.accepts (r := .jobRelease) (by decide)
  have hlh : lengthOk .jobHold f = true := by simp [lengthOk, hf]
  have hlr : lengthOk .jobRelease f = true := by simp [lengthOk, hf]
  have named := Part.named_of_some hn hj
  have settled := hfree.settled
  unfold Part.Settled at settled
  refine ⟨fun hst hc => ?holding, fun hst hc => ?held, fun hst => ?again, fun hst => ?refusedHold, fun hst => ?released,
    fun hst => ?active, fun hst => ?refusedRelease⟩
  case holding =>
    refine congrArg Host.Outcome.next (hfree.accepted tag (by omega) hmh hlh (by exact settled) ?_)
    obtain ⟨r, hr, hrj⟩ := hc
    simp only [Part.act, Part.jobHold, named, hst, Part.holdJob, Part.withdrawPendingOf_eq]
    have current : Part.isCurrent { s.part with runs := { s.part.runs with
        pending := s.part.runs.pending.filter fun r => r.job ≠ j.number } } j.number = true := by
      simp [Part.isCurrent, Option.mem_def.mp hr, hrj]
    rw [if_pos current]
    rfl
  case held =>
    refine congrArg Host.Outcome.next (hfree.acceptedRaising tag (by omega) hmh hlh (by exact settled) ?_
      (.inr (by simpa using hroom)))
    simp only [Part.act, Part.jobHold, named, hst, Part.holdJob, Part.withdrawPendingOf_eq]
    have notCurrent : ¬ Part.isCurrent { s.part with runs := { s.part.runs with
        pending := s.part.runs.pending.filter fun r => r.job ≠ j.number } } j.number = true := by
      simpa [Part.isCurrent] using hc
    rw [if_neg notCurrent]
    simp [Part.raise, Part.setJobState, Part.modJob, settled, left, out]
  case again =>
    refine congrArg Host.Outcome.next (hfree.accepted tag (by omega) hmh hlh hfree.settled ?_)
    rcases hst with hst | hst <;> simp only [Part.act, Part.jobHold, named, hst]
  case refusedHold =>
    refine congrArg Host.Outcome.next (hfree.refused tag (by omega) hmh hlh ?_)
    simp only [List.mem_cons, List.not_mem_nil, or_false] at hst
    rcases hst with hst | hst | hst | hst <;> simp only [Part.act, Part.jobHold, named, hst]
  case released =>
    refine congrArg Host.Outcome.next (hfree.accepted tag (by omega) hmr hlr (by exact settled) ?_)
    rcases hst with hst | hst <;> simp only [Part.act, Part.jobRelease, named, hst] <;> rfl
  case active =>
    refine congrArg Host.Outcome.next (hfree.accepted tag (by omega) hmr hlr hfree.settled ?_)
    simp only [Part.act, Part.jobRelease, named, hst]
  case refusedRelease =>
    refine congrArg Host.Outcome.next (hfree.refused tag (by omega) hmr hlr ?_)
    simp only [List.mem_cons, List.not_mem_nil, or_false] at hst
    rcases hst with hst | hst | hst | hst <;> simp only [Part.act, Part.jobRelease, named, hst]

/-! ## O22 and O24: FAULT_CLEAR, PARK, RESTART -/

/-- Settles O22: FAULT_CLEAR passes the checks of R156 in every mode. -/
theorem faultClearEmptiesTheRecord : Obligations.FaultClearEmptiesTheRecord := by
  intro s tag hfree
  have hm := s.part.ctl.mode.accepts_any (r := .faultClear) (by decide)
  exact congrArg Host.Outcome.next (hfree.accepted tag (Nat.zero_le _) hm rfl (by exact hfree.settled) rfl)

/-- Settles O24: PARK by mode and idle condition, RESTART in every mode. -/
theorem parkAndRestart : Obligations.ParkAndRestart := by
  intro s tag hfree hroom c waits
  have settled := hfree.settled
  unfold Part.Settled at settled
  have waiting (hm : s.part.ctl.mode ∈ acceptingModes .park)
      (e : s.part.parkRequest = Part.accept { s.part with ctl := { c with parkPending := true } } .okDeferred .empty) : waits :=
    congrArg Host.Outcome.next (hfree.accepted tag (Nat.zero_le _) hm rfl (by exact settled) e)
  refine ⟨fun hm hi => ?parks, fun hm hi => ?pends, fun hm => ?waking, fun hm => ?parked, ?restart⟩
  case parks =>
    have accepts : s.part.ctl.mode ∈ acceptingModes .park := by rw [show s.part.ctl.mode = _ from hm]; decide
    refine congrArg Host.Outcome.next (hfree.acceptedRaising tag (Nat.zero_le _) accepts rfl (by exact settled) ?_
      (.inr (by simpa using hroom)))
    have idle := (Part.idle_iff _).mpr hi
    simp only [Part.act, Part.parkRequest, show s.part.ctl.mode = _ from hm, idle, if_true]
    simp only [Part.park, Part.releaseGate, Part.changeMode, Part.raise, settled, List.nil_append, show s.part.ctl.mode = _ from hm, c]
  case pends =>
    have accepts : s.part.ctl.mode ∈ acceptingModes .park := by rw [show s.part.ctl.mode = _ from hm]; decide
    refine waiting accepts ?_
    have idle : ¬ s.part.idle = true := mt (Part.idle_iff _).mp hi
    simp only [Part.parkRequest, show s.part.ctl.mode = _ from hm, if_neg idle, c]
  case waking =>
    have accepts : s.part.ctl.mode ∈ acceptingModes .park := by rw [show s.part.ctl.mode = _ from hm]; decide
    refine waiting accepts ?_
    simp only [Part.parkRequest, show s.part.ctl.mode = _ from hm, c]
  case parked =>
    have accepts : s.part.ctl.mode ∈ acceptingModes .park := by rw [show s.part.ctl.mode = _ from hm]; decide
    refine congrArg Host.Outcome.next (hfree.accepted tag (Nat.zero_le _) accepts rfl settled ?_)
    simp only [Part.act, Part.parkRequest, show s.part.ctl.mode = _ from hm]
  case restart =>
    have hm := s.part.ctl.mode.accepts_any (r := .restart) (by decide)
    exact congrArg Host.Outcome.next (hfree.accepted tag (Nat.zero_le _) hm rfl settled rfl)

/-! ## O33: sensors that do not exist -/

/-- Settles O33: each of these events tests its number first. -/
theorem noSuchSensorFaults : Obligations.NoSuchSensorFaults := by
  intro s n occ
  refine ⟨fun hn => ?_, fun hn => ?_⟩
  · have hb : ¬ binOk n = true := by rw [binOk_iff]; omega
    exact ⟨if_neg hb, if_neg hb, if_neg hb⟩
  · have hd : ¬ drawerOk n = true := by rw [drawerOk_iff]; omega
    exact ⟨if_neg hd, if_neg hd⟩

end Sys2Proof.Machine
end

section
/-! The refusals of RUN_POST, drawer locks, the clearing of conditions, and wire loads. -/

namespace Sys2Proof.Machine

/-! ## O14: the refusals of RUN_POST -/

/-- 11 section 11.5: fields that fit their bytes are read back, in range or not. -/
theorem runPostFields_bytes_of_fit {r : RunPostFields} (hj : r.job ≤ 65535) (hp : r.page ≤ 255) (hs : r.stock ≤ 255)
    (hf : r.form ≤ 255) (hc : r.count ≤ 255) (hk : ∀ k ∈ r.copies, k ≤ 255) : runPostFields r.bytes = r := by
  obtain ⟨j, p, s, f, c, ks⟩ := r
  simp only at hj hp hs hf hc hk
  have copies : ks.map (BitVec.toNat ∘ BitVec.ofNat 8) = ks := by
    refine (List.map_congr_left fun k hm => ?_).trans (List.map_id ks)
    have := hk k hm
    simp only [Function.comp, BitVec.toNat_ofNat, id]
    omega
  simp only [runPostFields, RunPostFields.bytes, wordAt, byteAt, putWord, putByte, List.cons_append, List.nil_append,
    List.getD_cons_zero, List.getD_cons_succ, BitVec.toNat_ofNat, List.drop_succ_cons, List.drop_zero, List.map_map, copies,
    RunPostFields.mk.injEq, and_true]
  omega

/-- R23: the check of the fields, as ranges. -/
theorem RunPostFields.ok_iff {r : RunPostFields} (hj : r.job ≤ 65535) (hc : r.count = r.copies.length) :
    r.ok = true ↔ r.InRange := by
  simp only [RunPostFields.ok, Bool.and_eq_true, Bool.or_eq_true, bne_iff_ne, beq_iff_eq, decide_eq_true_eq, List.all_eq_true]
  constructor
  · rintro ⟨⟨⟨⟨⟨h1, h2⟩, h3⟩, h4⟩, h5⟩, h6⟩
    exact ⟨by omega, ⟨h2, h3⟩, h4, hc, by omega, h6⟩
  · rintro ⟨h1, h2, h3, _, h5, h6⟩
    exact ⟨⟨⟨⟨⟨by omega, h2.1⟩, h2.2⟩, h3⟩, by omega⟩, h6⟩

theorem Part.runPost_of_error {p : Part} {f : List Byte} {e : Result} (h : p.checkPost (runPostFields f) = .error e) :
    p.runPost f = p.refuse e := by
  simp only [Part.runPost, h]

/-- Settles O14: the checks of R23 one after the other. -/
theorem runPostRefusals : Obligations.RunPostRefusals := by
  intro s tag r hfree hmode hj hp hs hf hc hcount hk refuses
  have fields := runPostFields_bytes_of_fit hj hp hs hf (by omega) hk
  have count : byteAt r.bytes 5 = r.copies.length := (congrArg RunPostFields.count fields).trans hc
  have hl : lengthOk .runPost r.bytes = true := by simp [lengthOk, count]
  have refused {e : Result} (h : s.part.checkPost r = .error e) : refuses e :=
    congrArg Host.Outcome.next (hfree.refused tag (by simp; omega) (r := .runPost) hmode hl (Part.runPost_of_error (fields.symm ▸ h)))
  have ok := RunPostFields.ok_iff hj hc
  refine ⟨fun h => refused ?_, fun h hnone => refused ?_, fun j h hsome => ?_⟩
  · have notOk : r.ok = false := Bool.eq_false_iff.mpr (mt ok.mp h)
    simp [Part.checkPost, notOk]
  · simp [Part.checkPost, ok.mpr h, hnone]
  · refine ⟨fun hbad => refused ?_, fun hgood => ?_⟩
    · simp [Part.checkPost, ok.mpr h, hsome, hbad]
    · have within : (r.copies.any fun k => decide (j.copies < k)) = false := by simpa using hgood
      refine ⟨fun hdef => refused ?_, fun hdef => ⟨fun hst => refused ?_, fun hst hcur hpend => refused ?_⟩⟩
      · simp [Part.checkPost, ok.mpr h, hsome, within, hdef]
      · simp [Part.checkPost, ok.mpr h, hsome, within, hdef, hst]
      · simp [Part.checkPost, ok.mpr h, hsome, within, hdef, hst, hcur, hpend]

/-! ## O20: DRAWER_UNLOCK -/

/-- R120 to R128: the notices of a drawer operation follow those already raised. -/
theorem Part.drawerAct_eq (p : Part) (k : DrawerMap) (cs : List DrawerChange) :
    p.drawerAct (k, cs) =
      { p with drawers := k, out := { p.out with notices := p.out.notices ++ cs.map .drawerChanged } } := by
  unfold Part.drawerAct
  dsimp only
  induction cs generalizing p with
  | nil => simp
  | cons c cs ih =>
    have := ih (p.raise (.drawerChanged c))
    simp only [Part.raise, List.append_assoc, List.singleton_append] at this
    simpa [Part.raise] using this

/-- R120 to R128: at work, a drawer operation makes its change and its notices, and no check follows. -/
theorem Part.AtWork.drawerAct {p : Part} (h : p.AtWork) (hs : p.Settled) (k : DrawerMap) (cs : List DrawerChange) :
    (p.drawerAct (k, cs)).choiceCheck.examineIdle =
      { p.unidled with drawers := k, out := { reset := false, notices := cs.map .drawerChanged } } := by
  unfold Part.Settled at hs
  rw [Part.drawerAct_eq, hs]
  have work : Part.AtWork { p with drawers := k, out := { reset := false, notices := [] ++ cs.map .drawerChanged } } := h
  rw [work.choiceCheck, work.examineIdle]
  unfold Part.unidled
  dsimp only
  split <;> rfl

theorem Part.unidled_settled {p : Part} (h : p.Settled) : p.unidled.Settled := by
  unfold Part.Settled at *
  simpa using h

theorem isFlexible_iff {d : Nat} : isFlexible d = true ↔ 17 ≤ d ∧ d ≤ 20 := by
  simp [isFlexible]

/-- R129: a record written together with its nonvolatile copy; every other drawer, the markers and the tree stay. -/
theorem DrawerMap.rewritten (m : DrawerMap) {d : Nat} (ok : drawerOk d = true) (r : Drawer) :
    let k := (m.setDrawer d r).rewriteNv d
    k.drawer d = r ∧ k.nvOf d = { dest := r.dest, locked := r.locked } ∧
      (∀ c, c ≠ d → k.drawer c = m.drawer c ∧ k.nvOf c = m.nvOf c) ∧ k.markers = m.markers ∧ k.tree = m.tree := by
  intro k
  have here : k.drawer d = r := by simp [k, DrawerMap.drawer_rewriteNv, DrawerMap.drawer_setDrawer, ok]
  refine ⟨here, ?_, fun c hc => ⟨?_, ?_⟩, by simp [k], by simp [k]⟩
  · simp [k, DrawerMap.nvOf_rewriteNv, DrawerMap.drawer_setDrawer, ok]
  · simp [k, DrawerMap.drawer_rewriteNv, DrawerMap.drawer_setDrawer, hc]
  · simp [k, DrawerMap.nvOf_rewriteNv, DrawerMap.nvOf_setDrawer, hc]

/-- R128: the unlock of a locked drawer. -/
theorem DrawerMap.unlock_of_locked {m : DrawerMap} {f : Nat} (ok : drawerOk f = true) (h : (m.drawer f).locked = true) :
    m.unlock f = ((m.setDrawer f { m.drawer f with locked := false }).rewriteNv f,
      [{ drawer := f, dest := (m.drawer f).dest, before := (m.drawer f).dest, state := (m.drawer f).state, locked := false
         pile := (m.drawer f).pile, cause := .unlocked }]) := by
  obtain ⟨here, -⟩ := m.rewritten ok { m.drawer f with locked := false }
  simp only [DrawerMap.unlock, if_pos h, DrawerMap.change, here]

/-- Settles O20: the checks by the drawer's number, then the unlock. -/
theorem drawerUnlockClearsTheLock : Obligations.DrawerUnlockClearsTheLock := by
  intro s tag b hfree hroom hserve m f answers
  have hm := hserve.accepts (r := .drawerUnlock) (by decide)
  have hl : lengthOk .drawerUnlock [b] = true := rfl
  have act : s.part.act s.link .drawerUnlock [b] =
      if (!drawerOk f) = true then s.part.refuse .badField
      else if (!isFlexible f) = true then s.part.refuse .notFlexible
      else if (m.drawer f).locked = true then
        ((s.part.drawerAct (m.unlock f)).choiceCheck.examineIdle).accept .ok .empty
      else s.part.accept .ok .empty := rfl
  refine ⟨fun h => ?outside, fun h => ?fixed, fun h hu => ?unlocked, fun h hlock hwork => ?locked⟩
  case outside =>
    refine congrArg Host.Outcome.next (hfree.refused tag (by simp) hm hl (act.trans (if_pos ?_)))
    have : ¬ drawerOk f = true := by rw [drawerOk_iff]; omega
    simpa using this
  all_goals have isDrawer : drawerOk f = true := drawerOk_iff.mpr (by omega)
  case fixed =>
    have notFlexible : isFlexible f = false := by
      rw [Bool.eq_false_iff, Ne, isFlexible_iff]
      omega
    refine congrArg Host.Outcome.next (hfree.refused tag (by simp) hm hl (act.trans ?_))
    simp [isDrawer, notFlexible]
  all_goals have flexible : isFlexible f = true := isFlexible_iff.mpr (by omega)
  case unlocked =>
    refine congrArg Host.Outcome.next (hfree.accepted tag (by simp) hm hl hfree.settled (act.trans ?_))
    simp [isDrawer, flexible, hu]
  case locked =>
    have unlock := DrawerMap.unlock_of_locked isDrawer hlock
    let k := (m.setDrawer f { m.drawer f with locked := false }).rewriteNv f
    have settled : Part.Settled { s.part.unidled with drawers := k } := Part.unidled_settled hfree.settled
    refine ⟨k, congrArg Host.Outcome.next (hfree.acceptedRaising tag (by simp) hm hl settled (act.trans ?_)
      (.inr (by simpa using hroom))), m.rewritten isDrawer _⟩
    simp only [isDrawer, flexible, hlock, unlock, Bool.not_true, Bool.false_eq_true, if_false, if_true]
    exact congrArg (fun x : Part => x.accept .ok .empty) (hwork.drawerAct hfree.settled _ _)

/-! ## O21: ATTN_CLEAR -/

theorem conditionBit_lt (c : Condition) : conditionBit c < 8 := by cases c <;> decide

theorem conditionBit_inj {c d : Condition} : conditionBit c = conditionBit d ↔ c = d := by
  cases c <;> cases d <;> decide

/-- R151: clearing one bit of a set leaves the others. -/
theorem hasCondition_clear (a : BitVec 8) (c d : Condition) :
    hasCondition (a &&& ~~~(conditionMask d)) c = true ↔ hasCondition a c = true ∧ c ≠ d := by
  have mask : (conditionMask d).getLsbD (conditionBit c) = decide (d = c) := by
    rw [show conditionMask d = BitVec.twoPow 8 (conditionBit d) from rfl, BitVec.getLsbD_twoPow]
    simp only [conditionBit_lt, conditionBit_inj, decide_true, Bool.true_and]
  simp only [hasCondition, BitVec.getLsbD_and, BitVec.getLsbD_not, mask, conditionBit_lt, Bool.and_eq_true, decide_true,
    Bool.true_and, Bool.not_eq_true', decide_eq_false_iff_not, ne_comm, ne_eq]

/-- R152: the codes 0 to 7 name the conditions. -/
theorem conditionOf_eq_some {n : Nat} {c : Condition} : conditionOf n = some c ↔ n = conditionBit c := by
  unfold conditionOf
  split <;> cases c <;> simp [conditionBit]
  all_goals omega

theorem conditionOf_eq_none {n : Nat} : conditionOf n = none ↔ 7 < n := by
  unfold conditionOf
  split <;> simp_all
  omega

/-- R152: codes that are all 0 to 7 name their conditions. -/
theorem mapM_conditionOf_of_le : ∀ {cs : List Byte}, (∀ c ∈ cs, c.toNat ≤ 7) →
    ∃ ds, (cs.map BitVec.toNat).mapM conditionOf = some ds ∧ ∀ c, c ∈ ds ↔ BitVec.ofNat 8 (conditionBit c) ∈ cs
  | [], _ => ⟨[], rfl, by simp⟩
  | b :: cs, h => by
    obtain ⟨ds, hds, hmem⟩ := mapM_conditionOf_of_le fun c hc => h c (List.mem_cons_of_mem _ hc)
    have named : (conditionOf b.toNat).isSome = true := by
      rw [Option.isSome_iff_ne_none, Ne, conditionOf_eq_none]
      have := h b List.mem_cons_self
      omega
    obtain ⟨d, hd⟩ := Option.isSome_iff_exists.mp named
    refine ⟨d :: ds, by simp [hd, hds], fun c => ?_⟩
    rw [List.mem_cons, List.mem_cons, hmem]
    have code : b = BitVec.ofNat 8 (conditionBit d) := by
      rw [← conditionOf_eq_some.mp hd]
      simp
    have same : c = d ↔ BitVec.ofNat 8 (conditionBit c) = b := by
      rw [code, ← BitVec.toNat_inj, ← conditionBit_inj]
      have := conditionBit_lt c
      have := conditionBit_lt d
      simp only [BitVec.toNat_ofNat]
      omega
    rw [same]

/-- R152: a code above 7 names nothing. -/
theorem mapM_conditionOf_of_lt : ∀ {cs : List Byte}, (∃ c ∈ cs, 7 < c.toNat) → (cs.map BitVec.toNat).mapM conditionOf = none
  | b :: cs, ⟨c, hc, hlt⟩ => by
    rcases List.mem_cons.mp hc with rfl | hc
    · simp [conditionOf_eq_none.mpr hlt]
    · simp [mapM_conditionOf_of_lt ⟨c, hc, hlt⟩]

/-- R152: clearing the named conditions changes the attention set and what is owed, and keeps those whose level is present. -/
theorem Part.foldl_clearCondition (p : Part) (ds : List Condition) :
    ∃ after : BitVec 8,
      ds.foldl Part.clearCondition p =
        { p with faults := { p.faults with
          attention := after, owed := if Condition.noticeLost ∈ ds then none else p.faults.owed } } ∧
      ∀ c, hasCondition after c = true ↔ hasCondition p.faults.attention c = true ∧ (c ∉ ds ∨ p.keeps c = true) := by
  induction ds generalizing p with
  | nil => exact ⟨p.faults.attention, by simp, by simp⟩
  | cons d ds ih =>
    obtain ⟨after, heq, hmem⟩ := ih (p.clearCondition d)
    refine ⟨after, heq.trans ?_, fun c => (hmem c).trans ?_⟩
    · by_cases hk : p.keeps d = true
      · have : d ≠ .noticeLost := by
          rintro rfl
          simp [Part.keeps, Levels.of] at hk
        simp [Part.clearCondition, hk, Ne.symm this]
      · simp only [Part.clearCondition, hk, Bool.false_eq_true, if_false, List.mem_cons]
        by_cases hd : d = .noticeLost
        · simp [hd]
        · simp [hd, Ne.symm hd]
    · have keeps : (p.clearCondition d).keeps c = p.keeps c := by
        unfold Part.clearCondition
        split <;> rfl
      rw [keeps, List.mem_cons]
      by_cases hk : p.keeps d = true
      · simp only [Part.clearCondition, hk, if_true]
        by_cases hc : c = d
        · simp [hc, hk]
        · simp [hc]
      · simp only [Part.clearCondition, hk, Bool.false_eq_true, if_false, hasCondition_clear]
        by_cases hc : c = d
        · simp [hc, hk]
        · simp [hc]

/-- Settles O21: the named conditions, cleared one after the other. -/
theorem attnClearKeepsPresentLevels : Obligations.AttnClearKeepsPresentLevels := by
  intro s tag cs hfree hhalt hlen fields before
  have hm := Mode.accepts_of_ne_halted hhalt (r := .attnClear) (by decide)
  have count : byteAt fields 0 = cs.length := by
    simp only [fields, byteAt, List.getD_cons_zero, BitVec.toNat_ofNat]
    omega
  have hl : lengthOk .attnClear fields = true := by simp [lengthOk, count, fields, Nat.add_comm]
  have hf : fields.length ≤ 248 := by simp [fields]; omega
  have codes : attnCodes fields = cs.map BitVec.toNat := rfl
  refine ⟨fun hn hle => ?_, fun hbad => ?_⟩
  · obtain ⟨ds, hds, hmem⟩ := mapM_conditionOf_of_le hle
    have named : attnNamed fields = some ds := by
      rw [attnNamed, if_neg (by omega), codes, hds]
    obtain ⟨after, heq, hafter⟩ := s.part.foldl_clearCondition ds
    have lost : (6#8 ∈ cs) ↔ Condition.noticeLost ∈ ds := (hmem .noticeLost).symm
    refine ⟨after, congrArg Host.Outcome.next (hfree.accepted tag hf hm hl (by exact hfree.settled) ?_), fun c => ?_⟩
    · simp only [Part.act, Part.attnClear, named, heq, lost]
      rfl
    · rw [hafter, hmem]
      simp [Part.keeps, before, imp_iff_not_or]
  · have named : attnNamed fields = none := by
      rw [attnNamed, codes]
      split
      · rfl
      · rcases hbad with h | h | h
        · omega
        · omega
        · exact mapM_conditionOf_of_lt h
    exact congrArg Host.Outcome.next (hfree.refused tag hf hm hl (by simp only [Part.act, Part.attnClear, named]))

end Sys2Proof.Machine
end

section
/-! Requests on runs, wire and locks. -/

namespace Sys2Proof.Machine

/-! ## Checks and departures that do nothing -/

/-- R140: with a CURRENT run the idle condition does not hold. -/
theorem Part.examineIdle_of_current {p : Part} (h : p.runs.current.isSome = true) : p.examineIdle = p.unidled :=
  Part.examineIdle_of_not fun _ hi => by simp [hi.current] at h

/-- R140: with a run that settles the idle condition does not hold. -/
theorem Part.examineIdle_of_finishing {p : Part} (h : p.runs.finishing ≠ []) : p.examineIdle = p.unidled :=
  Part.examineIdle_of_not fun _ hi => h hi.finishing

/-- R9, R18: a run's departure moves no job but a CLOSING or CANCELLING one. -/
theorem Part.runDeparted_of {p : Part} {n : Nat} (h : ∀ j, p.job? n = some j → j.state ≠ .closing ∧ j.state ≠ .cancelling) :
    p.runDeparted n = p := by
  unfold Part.runDeparted
  split
  · rfl
  · next j hj =>
    obtain ⟨h1, h2⟩ := h j hj
    split
    · next e => exact absurd e h1
    · next e => exact absurd e h2
    · rfl

/-- R13: a run that leaves its slot holds no job but a HOLDING one. -/
theorem Part.runLeftSlot_of {p : Part} {n : Nat} (h : ∀ j, p.job? n = some j → j.state ≠ .holding) : p.runLeftSlot n = p := by
  unfold Part.runLeftSlot
  split
  · rfl
  · next j hj => exact if_neg (h j hj)

theorem Part.promotePending_of_none {p : Part} (h : p.runs.pending = none) : p.promotePending = p := by
  simp only [Part.promotePending, h]

/-- R29: one run done, of a job that its departure does not move. -/
theorem Part.completeAll_one {p : Part} {r : Run} (h : ∀ j, p.job? r.job = some j → j.state ≠ .closing ∧ j.state ≠ .cancelling) :
    p.completeAll [r] = p.raise r.done :=
  Part.runDeparted_of (p := p.raise r.done) h

/-- R151: a condition that stands is not latched again. -/
theorem Part.latch_of_has {p : Part} {c : Condition} (h : hasCondition p.faults.attention c = true) : p.latch c = p :=
  if_pos h

/-- R151: a clear condition whose mask bit is on is latched and reported. -/
theorem Part.latch_of_reported {p : Part} {c : Condition} (h : hasCondition p.faults.attention c = false)
    (hm : hasCondition p.faults.reportMask c = true) :
    p.latch c = Part.raise
      { p with faults := { p.faults with attention := p.faults.attention ||| conditionMask c } }
      (.attnRaised c (p.faults.attention ||| conditionMask c)) :=
  (if_neg (by simp [h])).trans (if_pos hm)

/-! ## O15: RUN_POST enters a slot -/

theorem Part.runPost_of_ok {p : Part} {f : List Byte} {j : Job} (h : p.checkPost (runPostFields f) = .ok j) :
    p.runPost f =
      ((p.admitRun ((runPostFields f).run j p.runs.takeId)).1.examineIdle).accept ((runPostFields f).result j)
        (.posted p.runs.takeId (p.admitRun ((runPostFields f).run j p.runs.takeId)).2
          ((runPostFields f).selected j).length) := by
  simp only [Part.runPost, h]
  rfl

/-- R23: fields in range, an ACTIVE job, a defined stock and a free slot pass the checks. -/
theorem Part.checkPost_of {p : Part} {r : RunPostFields} {j : Job} (h : r.InRange) (hj : p.job? r.job = some j)
    (hst : j.state = .active) (hk : ∀ k ∈ r.copies, k ≤ j.copies) (hdef : (p.stockAt r.stock).defined = true)
    (hs : p.runs.pending = none) : p.checkPost r = .ok j := by
  have ok := (RunPostFields.ok_iff h.job.2 h.count).mpr h
  have within : (r.copies.any fun k => Decidable.decide (j.copies < k)) = false := by simpa using hk
  simp [Part.checkPost, ok, hj, within, hdef, hst, hs]

/-- R20: both slots are not taken where CURRENT is free. -/
theorem Part.checkPost_of_current {p : Part} {r : RunPostFields} {j : Job} (h : r.InRange) (hj : p.job? r.job = some j)
    (hst : j.state = .active) (hk : ∀ k ∈ r.copies, k ≤ j.copies) (hdef : (p.stockAt r.stock).defined = true)
    (hs : p.runs.current = none) : p.checkPost r = .ok j := by
  have ok := (RunPostFields.ok_iff h.job.2 h.count).mpr h
  have within : (r.copies.any fun k => Decidable.decide (j.copies < k)) = false := by simpa using hk
  simp [Part.checkPost, ok, hj, within, hdef, hst, hs]

/-- Settles O15: the PENDING slot behind CURRENT, else the CURRENT slot, by the mode. -/
theorem runPostEntersASlot : Obligations.RunPostEntersASlot := by
  intro s tag r j hfree hroom hr hj hst hk hdef id selected res run c promoted answers
  have fields := runPostFields_bytes hr
  have count := RunPostFields.count_bytes hr
  have hl : lengthOk .runPost r.bytes = true := by simp [lengthOk, count]
  have copies : r.copies.length ≤ 48 := by
    have := hr.count
    have := hr.form
    omega
  have hf : r.bytes.length ≤ 248 := by simp; omega
  have accepts {m : Mode} (hm : s.part.ctl.mode = m) (h : m ∈ acceptingModes .runPost) :
      s.part.ctl.mode ∈ acceptingModes .runPost := hm ▸ h
  have posted (h : s.part.checkPost r = .ok j) : s.part.act s.link .runPost r.bytes =
      ((s.part.admitRun (run none .pending)).1.examineIdle).accept res
        (.posted id (s.part.admitRun (run none .pending)).2 selected.length) := by
    refine (Part.runPost_of_ok (fields.symm ▸ h)).trans ?_
    rw [fields]
    rfl
  have settled := hfree.settled
  unfold Part.Settled at settled
  refine ⟨fun hm hc hp => ?pending, fun hm hc => ?automatic, fun hm hc => ?waking, fun hm hc => ?parked⟩
  case pending =>
    refine congrArg Host.Outcome.next (hfree.accepted tag hf (r := .runPost) hm hl (by exact Part.unidled_settled hfree.settled)
      ((posted (Part.checkPost_of hr hj hst hk hdef hp)).trans ?_))
    have behind : s.part.runs.current.isNone = false := by simpa using hc
    simp only [Part.admitRun, behind, Bool.false_eq_true, if_false]
    rw [Part.examineIdle_of_current (by exact hc)]
    refine congrArg (fun x : Part => x.accept res _) ?_
    unfold Part.unidled
    dsimp only
    split <;> rfl
  all_goals
    have posted := posted (Part.checkPost_of_current hr hj hst hk hdef hc)
    simp only [Part.admitRun, hc, Option.isNone_none, if_true, Part.promote] at posted
  case automatic =>
    rw [Part.wake_of_ne (by rw [show s.part.ctl.mode = _ from hm]; decide), Part.examineIdle_of_current (by rfl)] at posted
    refine congrArg Host.Outcome.next (hfree.accepted tag hf (accepts hm (by decide)) hl (by exact hfree.settled)
      (posted.trans (congrArg (fun x : Part => x.accept res _) ?_)))
    exact if_pos hm
  case waking =>
    rw [Part.wake_of_ne (by rw [show s.part.ctl.mode = _ from hm]; decide), Part.examineIdle_of_current (by rfl)] at posted
    refine congrArg Host.Outcome.next (hfree.accepted tag hf (accepts hm (by decide)) hl (by exact hfree.settled)
      (posted.trans (congrArg (fun x : Part => x.accept res _) ?_)))
    exact if_neg (by rw [show s.part.ctl.mode = _ from hm]; decide)
  case parked =>
    rw [Part.wake, if_pos (by exact hm), Part.examineIdle_of_ne (by simp [Part.changeMode, Part.raise])] at posted
    refine congrArg Host.Outcome.next (hfree.acceptedRaising tag hf (accepts hm (by decide)) hl (by exact hfree.settled)
      (posted.trans (congrArg (fun x : Part => x.accept res _) ?_)) (.inr (by simpa using hroom)))
    simp only [Part.changeMode, Part.raise, settled, List.nil_append, show s.part.ctl.mode = _ from hm]
    rfl

/-! ## O16: RUN_WITHDRAW -/

/-- Settles O16: the run's slot decides. -/
theorem runWithdrawBySlot : Obligations.RunWithdrawBySlot := by
  intro s tag id hfree hroom hserve
  have hm := hserve.accepts (r := .runWithdraw) (by decide)
  have hl : lengthOk .runWithdraw [id] = true := rfl
  have settled := hfree.settled
  unfold Part.Settled at settled
  have act : s.part.act s.link .runWithdraw [id] =
      match s.part.runs.current.filter fun r => r.id = id with
      | some r => s.part.cutCurrent r
      | none =>
        match s.part.runs.pending.filter fun r => r.id = id with
        | some r => s.part.dropPending r
        | none => s.part.refuse (if s.part.runs.finishing.any fun r => r.id == id then .jobState else .badField) := rfl
  have other {o : Option Run} (h : o.map Run.id ≠ some id) : (o.filter fun r => decide (r.id = id)) = none := by
    cases o with
    | none => rfl
    | some r => simpa [Option.filter] using h
  refine ⟨?pending, ?current, ?gone⟩
  case pending =>
    intro r hr hc hid hcur hj
    have found : (s.part.runs.pending.filter fun r => decide (r.id = id)) = some r := by
      rw [Option.mem_def.mp hr]
      simp [hid]
    rw [other hc, found] at act
    refine congrArg Host.Outcome.next (hfree.accepted tag (by simp) hm hl (by exact Part.unidled_settled hfree.settled)
      (act.trans (congrArg (fun x : Part => x.accept .ok _) ?_)))
    rw [Part.runDeparted_of (by exact hj), Part.examineIdle_of_current (by exact hcur)]
    unfold Part.unidled
    dsimp only
    split <;> rfl
  case current =>
    intro r hr hid hp hj cut n answers
    have found : (s.part.runs.current.filter fun r => decide (r.id = id)) = some r := by
      rw [Option.mem_def.mp hr]
      simp [hid]
    rw [found] at act
    have total : r.cut.total = n := by simp [Run.cut, Run.total, n]
    have departed (h : Part) (e : h.jobs = s.part.jobs) (hp : h.runs.pending = none) :
        (h.runLeftSlot r.cut.job).promotePending = h := by
      have same (k : Nat) : h.job? k = s.part.job? k := by simp only [Part.job?, e]
      have stays : h.runLeftSlot r.cut.job = h := Part.runLeftSlot_of fun j hj' => (hj j ((same _).symm.trans hj')).2.2
      rw [stays, Part.promotePending_of_none hp]
    refine ⟨fun ht => ?_, fun ht hwork => ?_⟩
    · have flying : Part.ticketNames { s.part with runs := { s.part.runs with current := none } } r.cut.id = true := by
        simpa [Part.ticketNames, Run.cut, hid] using ht
      refine congrArg Host.Outcome.next (hfree.accepted tag (by simp) hm hl (by exact Part.unidled_settled hfree.settled)
        (act.trans ?_))
      simp only [Part.cutCurrent, Part.leaveSlot, flying, if_true, total]
      refine congrArg (fun x : Part => x.accept .ok _) ?_
      rw [departed _ (by rfl) (by exact hp), Part.examineIdle_of_finishing (by simp)]
      unfold Part.unidled
      dsimp only
      split <;> rfl
    · have landed : Part.ticketNames { s.part with runs := { s.part.runs with current := none } } r.cut.id = false := by
        simpa [Part.ticketNames, Run.cut, hid] using ht
      refine congrArg Host.Outcome.next (hfree.acceptedRaising tag (by simp) hm hl
        (by exact Part.unidled_settled hfree.settled) (act.trans ?_) (.inr (by simpa using hroom)))
      simp only [Part.cutCurrent, Part.leaveSlot, landed, Bool.false_eq_true, if_false, total]
      refine congrArg (fun x : Part => x.accept .ok _) ?_
      rw [Part.completeAll_one (by exact fun j hj' => ⟨(hj j hj').1, (hj j hj').2.1⟩), departed _ (by rfl) (by exact hp),
        Part.AtWork.examineIdle (by exact hwork)]
      unfold Part.unidled
      simp only [Part.raise, settled, List.nil_append, Run.done, total]
      subst hid
      split <;> rfl
  case gone =>
    intro hc hp
    rw [other hc, other hp] at act
    refine ⟨fun hf => ?_, fun hf => ?_⟩
    · refine congrArg Host.Outcome.next (hfree.refused tag (by simp) hm hl (act.trans ?_))
      have settling : (s.part.runs.finishing.any fun r => r.id == id) = true := by simpa using hf
      simp only [settling, if_true]
    · refine congrArg Host.Outcome.next (hfree.refused tag (by simp) hm hl (act.trans ?_))
      have gone : (s.part.runs.finishing.any fun r => r.id == id) = false := by simpa using hf
      simp only [gone, Bool.false_eq_true, if_false]

/-! ## O18: WIRE_LOAD -/

/-- R88, R98: an empty stitch queue needs no wire. -/
theorem Part.wireOutLevel_of_empty {p : Part} (h : p.carriage.queue = []) : p.wireOutLevel = false := by
  simp [Part.wireOutLevel, h]

/-- R95, R96: with no set waiting for its stitches, a wire length latches WIRE_LOW at most. -/
theorem Part.setWire_of_empty {p : Part} (h : p.carriage.queue = []) (w : Nat) :
    p.setWire w = Part.latchIf { p with carriage := { p.carriage with wire := w } } (Decidable.decide (w < wireLowMark)) .wireLow := by
  unfold Part.setWire Part.latchWireOut
  dsimp only
  rw [Part.wireOutLevel_of_empty (by simpa using h)]
  rfl

/-- Settles O18: the length as it is stored, then WIRE_LOW by its level. -/
theorem wireLoadStoresTheLength : Obligations.WireLoadStoresTheLength := by
  intro s tag f hfree hroom hhalt hf hq hwork v stored res loaded set
  have hm := Mode.accepts_of_ne_halted hhalt (r := .wireLoad) (by decide)
  have hl : lengthOk .wireLoad f = true := by simp [lengthOk, hf]
  have settled := hfree.settled
  unfold Part.Settled at settled
  have hstored : min wireLimit (longAt f 0) = stored := by
    simp only [stored, v, wireLimit]
    split <;> omega
  have act : s.part.act s.link .wireLoad f = (((s.part.setWire stored).takeCheck).examineIdle).accept res (.wire stored) := by
    simp only [Part.act, Part.wireLoad, hstored]
    rfl
  rw [Part.setWire_of_empty hq] at act
  have unlatched (h : ¬ stored < wireLowMark ∨ hasCondition s.part.faults.attention .wireLow = true) :
      Part.latchIf { s.part with carriage := { s.part.carriage with wire := stored } } (decide (stored < wireLowMark)) .wireLow =
        { s.part with carriage := { s.part.carriage with wire := stored } } := by
    unfold Part.latchIf
    rcases h with h | h
    · exact if_neg (by simpa using h)
    · rw [Part.latch_of_has (by exact h)]
      exact ite_self _
  refine ⟨fun h => ?_, fun hlow hclear hmask => ?_⟩
  · refine congrArg Host.Outcome.next (hfree.accepted tag (by omega) hm hl (by exact Part.unidled_settled hfree.settled)
      (act.trans (congrArg (fun x : Part => x.accept res _) ?_)))
    rw [unlatched (h.imp (fun h => by simpa [wireLowMark] using h) id), Part.AtWork.takeCheck (by exact hwork),
      Part.AtWork.examineIdle (by exact hwork)]
    simp only [loaded]
    unfold Part.unidled
    dsimp only
    split <;> rfl
  · refine congrArg Host.Outcome.next (hfree.acceptedRaising tag (by omega) hm hl (by exact Part.unidled_settled hfree.settled)
      (act.trans (congrArg (fun x : Part => x.accept res _) ?_)) (.inr (by simpa using hroom)))
    rw [Part.latchIf, if_pos (decide_eq_true (show stored < wireLowMark from hlow)), Part.latch_of_reported (by exact hclear) (by exact hmask),
      Part.AtWork.takeCheck (by exact hwork), Part.AtWork.examineIdle (by exact hwork)]
    simp only [loaded, Part.raise, settled, List.nil_append]
    unfold Part.unidled
    dsimp only
    split <;> rfl

/-! ## O19: DRAWER_LOCK -/

theorem mem_allDrawers {d : Nat} : d ∈ allDrawers ↔ 1 ≤ d ∧ d ≤ 20 := by
  simp only [allDrawers, List.mem_range', Config.numDrawers]
  constructor
  · rintro ⟨i, hi, rfl⟩
    omega
  · intro h
    exact ⟨d - 1, by omega, by omega⟩

theorem mem_flexibleDrawers {d : Nat} : d ∈ flexibleDrawers ↔ 17 ≤ d ∧ d ≤ 20 := by
  simp only [flexibleDrawers, List.mem_cons, List.not_mem_nil, or_false]
  omega

/-- R125: where no other drawer is OPEN for the destination none is closed. -/
theorem DrawerMap.closeOthers_of_none {m : DrawerMap} {dest keep : Nat}
    (h : ∀ d, 1 ≤ d ∧ d ≤ 20 → d ≠ keep → (m.drawer d).state = .open → (m.drawer d).dest ≠ some dest) :
    m.closeOthers dest keep = (m, []) := by
  unfold DrawerMap.closeOthers
  rw [List.filter_eq_nil_iff.mpr]
  · rfl
  · intro d hd
    have := h d (mem_allDrawers.mp hd)
    simp only [Bool.and_eq_true, decide_eq_true_eq, beq_iff_eq]
    rintro ⟨⟨h1, h2⟩, h3⟩
    exact this h1 h2 h3

/-- R117: a use of a flexible drawer leaves the markers and moves the tree. -/
theorem DrawerMap.use_of_flexible {m : DrawerMap} {d : Nat} (h : isFlexible d = true) :
    m.use d = { m with tree := m.tree.use d } := if_pos h

/-- R127: the lock of a drawer that another destination, or none, had. -/
theorem DrawerMap.lock_of_taken {m : DrawerMap} {f dest : Nat} (ok : drawerOk f = true) (hflex : isFlexible f = true)
    (hd : (m.drawer f).dest ≠ some dest)
    (hopen : ∀ d, 1 ≤ d ∧ d ≤ 20 → (m.drawer d).state = .open → (m.drawer d).dest ≠ some dest) :
    let r : Drawer := { m.drawer f with dest := some dest, state := .open, locked := true }
    let k := ({ m with tree := m.tree.use f } : DrawerMap).setDrawer f r |>.rewriteNv f
    m.lock f dest = (k, [{ drawer := f, dest := some dest, before := (m.drawer f).dest, state := .open, locked := true
                           pile := (m.drawer f).pile, cause := .locked }]) := by
  intro r k
  have differs : ((m.drawer f).dest == some dest) = false := by simpa using hd
  have moved : ((m.setDrawer f r).use f).rewriteNv f = k := by
    rw [DrawerMap.use_of_flexible hflex]
    simp only [k, DrawerMap.setDrawer]
    split <;> rfl
  obtain ⟨here, -, others, -⟩ := DrawerMap.rewritten { m with tree := m.tree.use f } ok r
  have alone : k.closeOthers dest f = (k, []) := DrawerMap.closeOthers_of_none fun d hr hne => by
    rw [(others d hne).1]
    exact hopen d hr
  simp only [DrawerMap.lock, differs, Bool.and_false, Bool.false_eq_true, if_false, Bool.false_and]
  change (let (m2, cs) := (((m.setDrawer f r).use f).rewriteNv f).closeOthers dest f
    (m2, (((m.setDrawer f r).use f).rewriteNv f).change f (m.drawer f).dest .locked :: cs)) = _
  rw [moved, alone]
  rw [DrawerMap.change, show k.drawer f = r from here]

/-- R126: the checks of a lock on a flexible drawer for a destination in range. -/
theorem DrawerMap.checkLock_of_flexible {m : DrawerMap} {f dest : Nat} (ok : drawerOk f = true) (hflex : isFlexible f = true)
    (hd : ¬ (dest = 0 ∨ dest > 4095)) :
    m.checkLock f dest =
      if (flexibleDrawers.any fun d => d ≠ f && (m.drawer d).locked && (m.drawer d).dest == some dest) = true then
        some .drawerBusy
      else if (m.drawer f).locked = true ∧ (m.drawer f).dest ≠ some dest then some .drawerBusy
      else if (m.drawer f).dest ≠ some dest ∧ ((m.drawer f).pile.map Pile.count ≠ some 0 ∨ (m.drawer f).awaited = true) then
        some .drawerBusy
      else none := by
  obtain ⟨h1, h2⟩ := not_or.mp hd
  simp [DrawerMap.checkLock, ok, hflex, h1, h2, Drawer.empty]

/-- Settles O19: the checks of R126, then the lock. -/
theorem drawerLockGivesTheDrawer : Obligations.DrawerLockGivesTheDrawer := by
  intro s tag f dest hfree hroom hserve hf hdest m fields refuses flexible lockedElsewhere
  have hm := hserve.accepts (r := .drawerLock) (by decide)
  have hl : lengthOk .drawerLock fields = true := rfl
  have short : fields.length ≤ 248 := (by decide : (3 : Nat) ≤ 248)
  have drawer : byteAt fields 0 = f := byteAt_putByte hf _
  have word : wordAt fields 1 = dest := wordAt_putWord hdest []
  have act : s.part.act s.link .drawerLock fields =
      match m.checkLock f dest with
      | some r => s.part.refuse r
      | none =>
        if ((m.drawer f).locked && (m.drawer f).dest == some dest) = true then s.part.accept .ok .empty
        else ((s.part.drawerAct (m.lock f dest)).choiceCheck.examineIdle).accept .ok .empty := by
    simp only [Part.act, Part.drawerLock, drawer, word]
    rfl
  have refused {e : Result} (h : m.checkLock f dest = some e) : refuses e := by
    rw [h] at act
    exact congrArg Host.Outcome.next (hfree.refused tag short hm hl act)
  have inRange (h : flexible) : drawerOk f = true ∧ isFlexible f = true ∧ ¬ (dest = 0 ∨ dest > 4095) := by
    obtain ⟨hf, h1, h2⟩ := h
    exact ⟨drawerOk_iff.mpr (by omega), isFlexible_iff.mpr hf, by omega⟩
  have elsewhere : (flexibleDrawers.any fun d => d ≠ f && (m.drawer d).locked && (m.drawer d).dest == some dest) = true ↔
      lockedElsewhere := by
    simp only [List.any_eq_true, mem_flexibleDrawers, Bool.and_eq_true, decide_eq_true_eq, beq_iff_eq, lockedElsewhere]
    exact ⟨fun ⟨d, ⟨h1, h2⟩, ⟨h3, h4⟩, h5⟩ => ⟨d, h1, h2, h3, h4, h5⟩, fun ⟨d, h1, h2, h3, h4, h5⟩ => ⟨d, ⟨h1, h2⟩, ⟨h3, h4⟩, h5⟩⟩
  have check (h : flexible) := DrawerMap.checkLock_of_flexible (m := m) (inRange h).1 (inRange h).2.1 (inRange h).2.2
  refine ⟨fun h => refused ?_, fun h hd => refused ?_, fun h hbusy => refused ?_, fun h hne hlock hd => ?_,
    fun h hne hlock hd hw hp hwork hopen => ?_⟩
  · have bad : (!drawerOk f || decide (dest = 0) || decide (dest > 4095)) = true := by
      simp only [Bool.or_eq_true, Bool.not_eq_true', decide_eq_true_eq, Bool.eq_false_iff, ne_eq, drawerOk_iff]
      omega
    exact if_pos bad
  · have ok : drawerOk f = true := drawerOk_iff.mpr (by omega)
    have notFlexible : isFlexible f = false := by
      rw [Bool.eq_false_iff, Ne, isFlexible_iff]
      omega
    have hdest : ¬ (dest = 0 ∨ dest > 4095) := by omega
    simp [DrawerMap.checkLock, ok, notFlexible, not_or.mp hdest]
  · rw [check h]
    rcases hbusy with hb | hb | hb
    · exact if_pos (elsewhere.mpr hb)
    · rw [if_pos hb, ite_self]
    · rw [if_pos hb, ite_self, ite_self]
  · have passes : m.checkLock f dest = none := by
      rw [check h, if_neg (mt elsewhere.mp hne), if_neg (fun k => k.2 hd), if_neg (fun k => k.1 hd)]
    rw [passes] at act
    refine congrArg Host.Outcome.next (hfree.accepted tag short hm hl hfree.settled (act.trans ?_))
    simp [hlock, hd]
  · obtain ⟨ok, hflex, -⟩ := inRange h
    obtain ⟨t, ht⟩ := hp
    have passes : m.checkLock f dest = none := by
      rw [check h, if_neg (mt elsewhere.mp hne), if_neg (fun k => by simp [hlock] at k), if_neg (fun k => by simp [ht, hw] at k)]
    have lock := DrawerMap.lock_of_taken ok hflex hd hopen
    let r : Drawer := { m.drawer f with dest := some dest, state := .open, locked := true }
    let k := (({ m with tree := m.tree.use f } : DrawerMap).setDrawer f r).rewriteNv f
    have settled : Part.Settled { s.part.unidled with drawers := k } := Part.unidled_settled hfree.settled
    obtain ⟨here, copy, others, markers, tree⟩ := DrawerMap.rewritten { m with tree := m.tree.use f } ok r
    refine ⟨k, congrArg Host.Outcome.next (hfree.acceptedRaising tag short hm hl settled (act.trans ?_)
      (.inr (by simpa using hroom))), here, copy, others, markers, ?_, ?_, ?_, ?_⟩
    · rw [passes]
      simp only [hlock, Bool.false_and, Bool.false_eq_true, if_false, lock]
      exact congrArg (fun x : Part => x.accept .ok .empty) (hwork.drawerAct hfree.settled _ _)
    all_goals
      rintro hf
      refine tree.trans ?_
      simp only [hf, Tree.use]

end Sys2Proof.Machine
end

section
/-! The press link: frames byte by byte, the commands they spell, its bounds, and what the transmitter sends next. -/

namespace Sys2Proof.Machine

/-! ## O26: bodies and commands -/

/-- R156: the kind byte of a request is its code. -/
theorem eq_requestCode_of_requestOf {k : Byte} {r : RequestKind} (h : requestOf k = some r) : k = requestCode r := by
  unfold requestOf at h
  split at h <;> cases h
  all_goals
    rename_i value
    exact BitVec.eq_of_toNat_eq value

/-- R156: the body of a request spells that request. -/
theorem decodeBody_request (r : RequestKind) (tag : Byte) (f : List Byte) (occ : Occupancy) :
    decodeBody (requestCode r :: tag :: f) occ = requestCommand r tag f occ := by
  simp only [decodeBody, requestOf_requestCode]

/-- R156: a body that is no request spells the frame of an unknown kind. -/
theorem decodeBody_unknown {body : List Byte} (h : unknownBodyOk body = true) (occ : Occupancy) :
    decodeBody body occ = .unknownKind body := by
  match body, h with
  | [_], _ => rfl
  | k :: tag :: f, h =>
    have kind : k = 0 ∨ 0x13 < k.toNat := by
      simp only [unknownBodyOk, isRequestKind, Bool.and_eq_true, Bool.not_eq_true', Bool.and_eq_false_iff,
        decide_eq_false_iff_not] at h
      rcases h.1 with h | h
      · exact .inl (BitVec.eq_of_toNat_eq (by simpa using h))
      · exact .inr (by omega)
    simp only [decodeBody, requestOf_eq_none kind]

/-- Settles O26: a request by its kind byte, an unknown frame by having none. -/
theorem frameBodiesSpellTheirCommands : Obligations.FrameBodiesSpellTheirCommands := by
  intro i body occ hwf hbody hocc
  cases i
  case unknownKind b =>
    obtain rfl := Option.some.inj hbody
    exact decodeBody_unknown hwf occ
  case resume tag f o =>
    obtain rfl := Option.some.inj hbody
    obtain rfl := hocc tag f o rfl
    exact decodeBody_request .resume tag f o
  all_goals cases hbody
  all_goals exact decodeBody_request _ _ _ occ

/-! ## O25 and O27: the receiver -/

/-- R154: the bytes of a body, received one by one. -/
theorem State.receive_body {s : State} {n : Nat} {got : List Byte} (bs : List Byte) (h : s.link.rx = .body n got)
    (hn : got.length + bs.length ≤ n) :
    bs.foldl State.receive s = { s with link := { s.link with rx := .body n (got ++ bs) } } := by
  induction bs generalizing s got with
  | nil =>
    obtain ⟨p, ⟨rx, buffer, answer, sending, outbox, noise, overrun, seq⟩, w⟩ := s
    simp only at h
    simp [h]
  | cons b bs ih =>
    have short : got.length < n := by
      rw [List.length_cons] at hn
      omega
    have one : s.receive b = { s with link := { s.link with rx := .body n (got ++ [b]) } } := by
      simp only [State.receive, h, if_pos short]
    rw [List.foldl_cons, one, ih (got := got ++ [b]) rfl (by simp at hn ⊢; omega)]
    simp

/-- R154: a start byte and a length from 1 to 250 begin a body. -/
theorem State.receive_envelope {s : State} (h : s.link.rx = .idle) {n : Nat} (h1 : 1 ≤ n) (h2 : n ≤ 250) :
    (s.receive 0xA5).receive (BitVec.ofNat 8 n) = { s with link := { s.link with rx := .body n [] } } := by
  have start : s.receive 0xA5 = { s with link := { s.link with rx := .length } } := by
    simp [State.receive, h]
  have value : (BitVec.ofNat 8 n).toNat = n := by
    simp only [BitVec.toNat_ofNat]
    omega
  have inRange : ¬ (BitVec.ofNat 8 n = 0 ∨ 250 < (BitVec.ofNat 8 n).toNat) := by
    rw [← BitVec.toNat_inj, value]
    simp
    omega
  rw [start]
  exact (if_neg inRange).trans (by rw [value])

/-- R154: after the start byte, the length and the body, the check byte decides. -/
theorem State.receive_frame {s : State} (h : s.link.rx = .idle) {body : List Byte} (h1 : 1 ≤ body.length) (h2 : body.length ≤ 250)
    (c : Byte) :
    (0xA5 :: BitVec.ofNat 8 body.length :: body ++ [c]).foldl State.receive s =
      if crc8 (BitVec.ofNat 8 body.length :: body) = c then s.complete body
      else ({ s with link := { s.link with rx := .body body.length body } } : State).discard := by
  have idle : ({ s with link := { s.link with rx := .idle } } : State) = s := by
    obtain ⟨p, ⟨rx, buffer, answer, sending, outbox, noise, overrun, seq⟩, w⟩ := s
    simp only at h
    rw [h]
  rw [List.cons_append, List.cons_append, List.foldl_cons, List.foldl_cons, State.receive_envelope h h1 h2, List.foldl_append,
    State.receive_body (n := body.length) (got := []) body rfl (by simp)]
  simp only [List.foldl_cons, List.foldl_nil, List.nil_append, State.receive, lt_irrefl, if_false, idle]

/-- R154: a whole frame arrives with its last byte. -/
theorem State.receive_frameOf {s : State} (h : s.link.rx = .idle) {body : List Byte} (h1 : 1 ≤ body.length) (h2 : body.length ≤ 250) :
    (frameOf body).foldl State.receive s = s.frameArrives body := by
  rw [frameOf, State.receive_frame h h1 h2, if_pos rfl, State.frameArrives, if_neg (by omega)]

/-- R156: the command of a body is the arrival of its frame, the sensors sampled. -/
theorem exec_decodeBody (s : State) {body : List Byte} (occ : Occupancy) :
    exec (decodeBody body occ) (s.withOccupancy occ) = .next ((s.withOccupancy occ).frameArrives body) := by
  have unknown : exec (.unknownKind body) (s.withOccupancy occ) = .next ((s.withOccupancy occ).frameArrives body) := rfl
  match body with
  | [] | [_] => exact unknown
  | k :: tag :: f =>
    cases hk : requestOf k with
    | none =>
      simp only [decodeBody, hk]
      exact unknown
    | some r =>
      have sampled : (s.withOccupancy occ).sensed r occ = s.withOccupancy occ := ite_self _
      simp only [decodeBody, hk]
      rw [exec_requestCommand, sampled, State.requestArrives, ← eq_requestCode_of_requestOf hk]

/-- Settles O25: the frame, byte by byte, and what its body spells. -/
theorem aRequestFrameRunsItsRequest : Obligations.ARequestFrameRunsItsRequest := by
  intro s body occ hidle
  have frame {b : List Byte} (h : 1 ≤ b.length ∧ b.length ≤ 250) :
      exec (.frameReceived (frameOf b) occ) s = exec (decodeBody b occ) (s.withOccupancy occ) := by
    rw [exec_decodeBody]
    exact congrArg Host.Outcome.next (State.receive_frameOf (by exact hidle) h.1 h.2)
  refine ⟨frame, fun tag hfree => (frame (by simp)).trans ?_⟩
  have free : Free (s.withOccupancy occ) := ⟨hfree.settled, hfree.answer, hfree.sending, hfree.buffer⟩
  exact identifyAnswersTheIdentity _ tag free

/-- R154: a discarded frame, while a frame is in transmission. -/
theorem Busy.discard {s : State} (h : Busy 1 s) :
    s.discard =
      ({ s with link := { s.link with rx := .idle, noise := min 65535 (s.link.noise + 1) } } : State).latched .linkNoise :=
  State.act_latch s.part rfl h.settled h.sending h.room

/-- Settles O27: the receiver's place decides what a byte or the timeout does. -/
theorem brokenFramesAreNoise : Obligations.BrokenFramesAreNoise := by
  intro s occ hbusy t noise
  have busy : Busy 1 t := ⟨hbusy.settled, hbusy.sending, hbusy.room⟩
  have midFrame (rx : Rx) : Busy 1 { t with link := { t.link with rx := rx } } := ⟨hbusy.settled, hbusy.sending, hbusy.room⟩
  refine ⟨fun b h hb => ?_, fun b h hb => ?_, fun body c h hl hc => ?_, fun h => ?_, fun h => ?_⟩
  · have h : t.link.rx = .idle := h
    have dropped : t.receive b = t := by
      simp only [State.receive, h, if_neg hb]
    exact congrArg Host.Outcome.next dropped
  · have h : t.link.rx = .idle := h
    have start : t.receive 0xA5 = { t with link := { t.link with rx := .length } } := by
      simp [State.receive, h]
    have bad : b = 0 ∨ 250 < b.toNat := hb.imp_left fun h => BitVec.eq_of_toNat_eq h
    have broken : (t.receive 0xA5).receive b = noise t := by
      rw [start]
      exact (if_pos bad).trans (midFrame .length).discard
    exact congrArg Host.Outcome.next broken
  · have broken : (0xA5 :: BitVec.ofNat 8 body.length :: body ++ [c]).foldl State.receive t = noise t := by
      rw [State.receive_frame (by exact h) hl.1 hl.2, if_neg (Ne.symm hc)]
      exact (midFrame _).discard
    exact congrArg Host.Outcome.next broken
  · exact congrArg Host.Outcome.next ((if_neg h).trans hbusy.discard)
  · exact congrArg Host.Outcome.next (if_pos h)

/-! ## O28 and O29: the buffers and the transmitter -/

/-- R155: with an answer waiting nothing is taken. -/
theorem State.pump_of_answer {s : State} (h : s.link.answer.isSome = true) : s.pump = s := by
  have blocked : ¬ s.link.mayTake = true := by
    simp [Link.mayTake, Option.isNone_eq_false_iff.mpr h]
  exact if_neg blocked

/-- Settles O28: the bound of each buffer in turn. -/
theorem buffersAreBounded : Obligations.BuffersAreBounded := by
  intro s tag body n a hsettled f set next
  refine ⟨fun hs ha hb => ?taken, fun hs ha hok hlen => ?held, fun hfull => ?lost⟩
  case taken =>
    obtain ⟨p, ⟨rx, buffer, answer, sending, outbox, noise, overrun, seq⟩, w⟩ := s
    simp only at hs ha hb
    subst hs ha hb
    let s : State := { part := p, link := ⟨rx, [], none, some (.notice n), outbox, noise, overrun, seq⟩, pending := w }
    have identity : s.takeBody [0x01, tag] = { s with link := { s.link with
        answer := some { kind := 0x01, tag := tag, result := .ok, fields := .identity 0x4F50 4820 1 48 20 } } } := by
      have answers : s.answerTo [0x01, tag] =
          (p, { kind := 0x01, tag := tag, result := .ok, fields := .identity 0x4F50 4820 1 48 20 }) := by
        change ((p.request s.link .identify []).part, _) = _
        rw [Part.request_identify]
        rfl
      rw [State.takeBody, answers]
      exact State.flush_settled hsettled
    have pumped := State.pump_one (s := { s with link := { s.link with buffer := [[0x01, tag]] } }) (body := [0x01, tag]) rfl rfl
      (by rw [show State.takeBody _ _ = _ from identity])
    exact congrArg Host.Outcome.next (pumped.trans identity)
  case held =>
    have nonempty : body ≠ [] := by
      rintro rfl
      simp [unknownBodyOk] at hok
    have arrives : s.frameArrives body = s.complete body := if_neg (by simp [nonempty]; omega)
    refine ⟨fun hroom => congrArg Host.Outcome.next (arrives.trans ?_), fun hfull => congrArg Host.Outcome.next (arrives.trans ?_)⟩
    · exact (if_pos hroom).trans (State.pump_of_answer (by simp [ha]))
    · exact if_neg (by simp [bufferLimit, hfull])
  case lost =>
    have noRoom : ¬ s.link.outbox.length < outboxLimit := by simpa [outboxLimit] using hfull
    refine ⟨fun h => (if_neg noRoom).trans ?_, fun h => (if_neg noRoom).trans ?_⟩
    · exact if_pos h
    · exact if_neg (by simpa using h)

/-- Settles O29: the waiting answer, else the oldest notice, else nothing. -/
theorem theNextFrameIsSent : Obligations.TheNextFrameIsSent := by
  intro s occ x hsettled hs hb hx t
  have noRestart : x.isRestart = false := by
    cases x with
    | notice _ => rfl
    | answer a => simpa [Sent.isRestart, Answer.isRestart, requestCode] using hx a rfl
  obtain ⟨p, ⟨rx, buffer, answer, sending, outbox, noise, overrun, seq⟩, w⟩ := s
  simp only at hs hb
  subst hs hb
  let free : State :=
    { part := p.sample occ, link := ⟨rx, [], answer, none, outbox, noise, overrun, seq⟩, pending := w }
  have ends : exec (.frameSent occ) ⟨p, ⟨rx, [], answer, some x, outbox, noise, overrun, seq⟩, w⟩ = .next free.transmit.pump :=
    congrArg Host.Outcome.next (if_neg (by simp [noRestart]))
  have nothingTaken {u : State} (h : free.transmit = u) (hu : u.link.buffer = []) : free.transmit.pump = u := by
    rw [h]
    exact State.takeFrames_empty hu _
  refine ⟨fun a ha => ?_, fun n rest ha ho howed => ?_, fun n rest set ha ho hroom howed => ?_, fun ha ho => ?_⟩
  · simp only at ha
    subst ha
    exact ends.trans (congrArg Host.Outcome.next (nothingTaken rfl rfl))
  · simp only at ha ho
    subst ha ho
    let u : State := { part := p.sample occ, link := ⟨rx, [], none, some (.notice n), rest, noise, overrun, seq⟩, pending := w }
    have paid : u.payOwed = u := by
      simp only [State.payOwed, show u.part.faults.owed = none from howed]
    exact ends.trans (congrArg Host.Outcome.next (nothingTaken (show free.transmit = u from paid) rfl))
  · simp only at ha ho
    subst ha ho
    let u : State :=
      { part := { p.sample occ with faults := { p.faults with owed := none } }
        link := ⟨rx, [], none, some (.notice n), rest ++ [{ seq := seq, notice := .attnRaised .noticeLost set }], noise, overrun,
          seq + 1⟩
        pending := w }
    have paid : free.transmit = u := by
      change State.payOwed { free with link := ⟨rx, [], none, some (.notice n), rest, noise, overrun, seq⟩ } = u
      simp only [State.payOwed, show free.part.faults.owed = some set from howed]
      exact if_pos hroom
    exact ends.trans (congrArg Host.Outcome.next (nothingTaken paid rfl))
  · simp only at ha ho
    subst ha ho
    exact ends.trans (congrArg Host.Outcome.next (nothingTaken rfl rfl))

end Sys2Proof.Machine
end

section
/-! Starts, halts, and the events a mode ignores. -/

namespace Sys2Proof.Machine

/-! ## O30: starts -/

/-- R130: the record of each drawer after the restore. -/
theorem restoredDrawer_spec (c : NvCopy) (occupied : Bool) : Restored c occupied (restoredDrawer c occupied) := by
  obtain ⟨dest, locked⟩ := c
  cases locked with
  | true => cases occupied <;> exact ⟨rfl, rfl, rfl, fun _ => rfl, nofun, fun _ => rfl, nofun⟩
  | false =>
    cases occupied with
    | false => cases dest <;> exact ⟨rfl, rfl, rfl, by simp, fun _ _ => ⟨rfl, rfl⟩, nofun, nofun⟩
    | true => cases dest <;> exact ⟨rfl, rfl, rfl, fun _ => rfl, nofun, nofun, fun _ _ => rfl⟩

theorem DrawerMap.drawer_restore (m : DrawerMap) (l : Lines) {d : Nat} (h : 1 ≤ d ∧ d ≤ 20) :
    (m.restore l).drawer d = restoredDrawer (m.nvOf d) (l.drawerOccupied d) := by
  have inRange : 1 ≤ d ∧ d ≤ Config.numDrawers := h
  have same : d - 1 + 1 = d := by omega
  simp [DrawerMap.drawer, DrawerMap.restore, inRange, same]

theorem DrawerMap.nvOf_restore (m : DrawerMap) (l : Lines) {d : Nat} (h : 1 ≤ d ∧ d ≤ 20) :
    (m.restore l).nvOf d = { dest := ((m.restore l).drawer d).dest, locked := ((m.restore l).drawer d).locked } := by
  have inRange : 1 ≤ d ∧ d ≤ Config.numDrawers := h
  simp [DrawerMap.nvOf, DrawerMap.drawer, DrawerMap.restore, inRange]

theorem DrawerMap.marker_restore (m : DrawerMap) (l : Lines) (r : Nat) : (m.restore l).marker r = .one := by
  unfold DrawerMap.marker DrawerMap.restore
  split <;> simp

/-- R158: with nothing owed the transmitter's turn leaves the part and takes no number. -/
theorem State.transmit_unowed {s : State} (h : s.part.faults.owed = none) :
    s.transmit.part = s.part ∧ s.transmit.link.rx = s.link.rx ∧ s.transmit.link.buffer = s.link.buffer ∧
    s.transmit.link.noise = s.link.noise ∧ s.transmit.link.overrun = s.link.overrun ∧ s.transmit.link.seq = s.link.seq ∧
    s.transmit.link.outbox.length ≤ s.link.outbox.length := by
  unfold State.transmit State.payOwed
  split
  · simp
  · split
    · simp
    · next n rest _ ho => simp [h, ho]
    · simp

/-- R158: notices that all find room leave the part and take their numbers. -/
theorem State.foldl_offer_unowed (ns : List Notice) {s : State} (h : s.part.faults.owed = none)
    (room : s.link.outbox.length + ns.length ≤ 32) :
    let t := ns.foldl (fun s n => (s.offer n).transmit) s
    t.part = s.part ∧ t.link.rx = s.link.rx ∧ t.link.buffer = s.link.buffer ∧ t.link.noise = s.link.noise ∧
    t.link.overrun = s.link.overrun ∧ t.link.seq = s.link.seq + BitVec.ofNat 8 ns.length := by
  induction ns generalizing s with
  | nil => simp
  | cons n ns ih =>
    rw [List.length_cons] at room
    have offered : s.offer n = s.queued [n] := State.offer_of_room (by omega) n
    obtain ⟨part, rx, buffer, noise, overrun, seq, outbox⟩ := State.transmit_unowed (s := s.queued [n]) h
    have outbox : (s.queued [n]).transmit.link.outbox.length ≤ s.link.outbox.length + 1 := by
      simpa [State.queued, numbered] using outbox
    obtain ⟨part', rx', buffer', noise', overrun', seq'⟩ := ih (s := (s.queued [n]).transmit) (by rw [part]; exact h) (by omega)
    rw [List.foldl_cons, offered]
    refine ⟨part'.trans part, rx'.trans rx, buffer'.trans buffer, noise'.trans noise, overrun'.trans overrun, ?_⟩
    rw [seq', seq]
    simp only [State.queued, List.length_cons, List.length_nil]
    bv_omega

/-- R134, R144, R159: an act that begins a STARTING interval. -/
theorem State.act_startUp {s : State} {f : Part → Part} {q : Part} {cause : ModeCause} (e : f s.part = q.startUp cause) :
    (s.act f).part = { q.startUp cause with out := { reset := false, notices := [] } } ∧ Starts q.lines q.drawers (s.act f) := by
  have notices : (q.startUp cause).out.notices.length = 21 := by
    simp [Part.startUp, DrawerMap.restoreChanges, allDrawers, Config.numDrawers]
  obtain ⟨part, rx, buffer, noise, overrun, seq⟩ := State.foldl_offer_unowed (q.startUp cause).out.notices
    (s := { s with
      part := { q.startUp cause with out := { reset := false, notices := [] } }, link := s.link.reset })
    rfl (by simp [Link.reset, notices])
  have act : s.act f = (q.startUp cause).out.notices.foldl (fun s n => (s.offer n).transmit)
      { s with part := { q.startUp cause with out := { reset := false, notices := [] } }, link := s.link.reset } := by
    unfold State.act
    rw [e]
    rfl
  rw [← act] at part rx buffer noise overrun seq
  rw [notices] at seq
  refine ⟨part, ?_⟩
  constructor
  case link => exact ⟨rx, buffer, noise, overrun, seq⟩
  all_goals rw [part]
  case lines | jobs | runs | path | carriage | conv | tree => rfl
  case mode => exact ⟨rfl, rfl, rfl⟩
  case timers => exact ⟨rfl, rfl⟩
  case door => exact ⟨rfl, rfl, rfl⟩
  case faults => exact ⟨rfl, rfl⟩
  case markers => exact fun r _ => q.drawers.marker_restore q.lines r
  case bins =>
    intro b hb
    have inRange : 1 ≤ b ∧ b ≤ Config.numBins := hb
    have same : b - 1 + 1 = b := by omega
    simp only [Part.bin, Part.startUp, startUpAudit, inRange, and_self, dite_true, Vector.getElem_ofFn, same]
    split <;> rfl
  case drawers =>
    intro d hd
    have restored := q.drawers.drawer_restore q.lines hd
    exact ⟨restored ▸ restoredDrawer_spec _ _, q.drawers.nvOf_restore q.lines hd⟩

/-- R144: a start that is no power-on keeps the stock table, the wire, the options and the fault record. -/
theorem Part.startUp_keeps (q : Part) {cause : ModeCause} (h : cause ≠ .powerOn) :
    let p := q.startUp cause
    p.stock = q.stock ∧ p.carriage.wire = q.carriage.wire ∧ p.ctl.idleTime = q.ctl.idleTime ∧
    p.faults.fatalAction = q.faults.fatalAction ∧ p.faults.reportMask = q.faults.reportMask ∧ p.faults.first = q.faults.first ∧
    p.faults.later = q.faults.later ∧ p.faults.overwritten = q.faults.overwritten := by
  simp [Part.startUp, h]

/-- R144: what a restart of a part like `s`'s keeps. -/
theorem Part.keeps_of_startUp {s t : State} {q : Part} {cause : ModeCause} (h : cause ≠ .powerOn)
    (ht : t.part = { q.startUp cause with out := { reset := false, notices := [] } })
    (hstock : q.stock = s.part.stock) (hwire : q.carriage.wire = s.part.carriage.wire)
    (hidle : q.ctl.idleTime = s.part.ctl.idleTime) (hfatal : q.faults.fatalAction = s.part.faults.fatalAction)
    (hmask : q.faults.reportMask = s.part.faults.reportMask) :
    Keeps s t ∧ t.part.faults.first = q.faults.first ∧ t.part.faults.later = q.faults.later ∧
      t.part.faults.overwritten = q.faults.overwritten := by
  obtain ⟨stock, wire, idle, fatal, mask, first, later, overwritten⟩ := q.startUp_keeps h
  refine ⟨⟨?_, ?_, ?_, ?_, ?_⟩, ?_, ?_, ?_⟩ <;> rw [ht]
  · exact stock.trans hstock
  · exact wire.trans hwire
  · exact idle.trans hidle
  · exact fatal.trans hfatal
  · exact mask.trans hmask
  · exact first
  · exact later
  · exact overwritten

/-- Settles O30: power-on, and the end of an accepted RESTART's answer. -/
theorem startsFollowTheTable : Obligations.StartsFollowTheTable := by
  intro s l occ
  refine ⟨?power, fun tag f hs => ?restart⟩
  case power =>
    let x : State := { s with link := { s.link with sending := none, answer := none } }
    obtain ⟨part, starts⟩ := State.act_startUp (s := x) (f := fun p => ({ p with lines := l } : Part).startUp .powerOn)
      (q := { s.part with lines := l }) rfl
    refine ⟨_, rfl, starts, ?_⟩
    rw [part]
    refine ⟨rfl, rfl, rfl, fun c hc => ?_, rfl, rfl, rfl, rfl, rfl⟩
    have inRange : c < Config.numStocks := Nat.lt_succ_of_le hc.2
    have undefined : (powerOnStock[c]'inRange).defined = false := by
      simp only [powerOnStock]
      rw [Vector.getElem_set_ne _ _ (by omega), Vector.getElem_replicate]
    simp only [Part.stockAt, inRange, dite_true]
    exact undefined
  case restart =>
    let x : State := { s.sample occ with link := { s.link with sending := none } }
    obtain ⟨part, starts⟩ := State.act_startUp (s := x) (f := fun p => p.startUp .restartRequest) (q := s.part.sample occ) rfl
    have ends : exec (.frameSent occ) s = .next (x.act fun p => p.startUp .restartRequest) := by
      obtain ⟨p, ⟨rx, buffer, answer, sending, outbox, noise, overrun, seq⟩, w⟩ := s
      simp only at hs
      subst hs
      rfl
    exact ⟨_, ends, starts, Part.keeps_of_startUp (q := s.part.sample occ) (by decide) part rfl rfl rfl rfl rfl⟩

/-! ## O31: the fatal fault -/

/-- R147: a fatal fault in the record by the prior record; the options and the attention set stay. -/
theorem FaultBlock.enter_fatal (f : FaultBlock) {e : FaultEntry} (h : isFatal e.kind = true) :
    (f.first = none → (f.enter e).first = some e ∧ (f.enter e).overwritten = f.overwritten) ∧
    (∀ g ∈ f.first, isFatal g.kind = false →
      (f.enter e).first = some e ∧ (f.enter e).overwritten = true ∧ (f.enter e).later = f.later) ∧
    (∀ g ∈ f.first, isFatal g.kind = true → (f.enter e).first = some g ∧ (f.enter e).later = min 255 (f.later + 1)) ∧
    (f.enter e).fatalAction = f.fatalAction ∧ (f.enter e).reportMask = f.reportMask := by
  unfold FaultBlock.enter FaultBlock.effect
  cases hf : f.first with
  | none => simp
  | some g => cases hg : isFatal g.kind <;> simp [h, hg]

/-- The entry that the loss of the carriage records. -/
def Part.lossEntry (p : Part) (loc : Location) : FaultEntry :=
  { kind := .carriageLost, location := loc, job := p.carriage.held.bind fun h => (p.bin h.bin).set.job, mode := p.ctl.mode }

/-- R90, R94, R149: the lost carriage, its fault in the record. -/
def Part.carriageRecorded (p : Part) (loc : Location) : Part := p.stopDrive.recordFault (p.lossEntry loc)

theorem Part.carriageRecorded_eq (p : Part) (loc : Location) :
    p.carriageRecorded loc = Part.raise
      { p.stopDrive with faults := p.faults.enter (p.lossEntry loc) }
      (.faultNote (p.lossEntry loc) (p.faults.effect .carriageLost)) := rfl

theorem Part.carriageLost_eq (p : Part) (loc : Location) :
    p.carriageLost loc =
      if p.ctl.mode = .starting ∨ p.faults.fatalAction = .halt then (p.carriageRecorded loc).halt .carriageLost
      else (p.carriageRecorded loc).startUp .selfRestart := by
  obtain ⟨-, -, -, action, -⟩ := p.faults.enter_fatal (e := p.lossEntry loc) rfl
  have fatal : (p.carriageRecorded loc).faults.fatalAction = p.faults.fatalAction := action
  rw [← fatal]
  rfl

/-- R143: what a halt leaves, of a part whose drive has stopped. -/
theorem Part.halts_of_carriageLost {s : State} {n : Nat} {occ : Occupancy} {loc : Location} {t : State} {g : FaultBlock}
    (ht : t.part = { (Part.carriageRecorded { s.part.sample occ with now := n } loc).halt .carriageLost with
      faults := g, out := { reset := false, notices := [] } }) : Halts s t := by
  constructor <;> rw [ht]
  case ctl | path | conv => rfl
  case carriage => rfl
  case kept => exact ⟨rfl, rfl, rfl, rfl, rfl⟩

/-- R90, R94: each of the events that lose the carriage. -/
theorem exec_carriageLost {s : State} {c : Instr} {occ : Occupancy} {loc : Location} {b : Nat} (hhalt : s.part.ctl.mode ≠ .halted)
    (hc : (c = .homingDeadline occ ∧ loc = .none ∧ s.part.carriage.state = .homing ∧ s.part.carriage.deadline.isSome = true) ∨
      (s.part.carriage.state = .travelling ∧ s.part.carriage.target = some (.bin b) ∧
        ((c = .travelDeadline occ ∧ loc = .bin b ∧ s.part.carriage.deadline.isSome = true) ∨
          (c = .carriageHome occ ∧ loc = .none) ∨
          (∃ d, c = .carriageAt d occ ∧ loc = .bin d ∧ d ≠ b ∧ 1 ≤ d ∧ d ≤ 48)))) :
    ∃ (f : Part → Part) (n : Nat), exec c s = .next ((s.sample occ).act f) ∧
      f (s.part.sample occ) = Part.carriageLost { s.part.sample occ with now := n } loc := by
  have running (f : Part → Part) : (s.part.sample occ).unlessHalted f = f (s.part.sample occ) := if_neg hhalt
  rcases hc with ⟨rfl, rfl, hst, hd⟩ | ⟨hst, htgt, ⟨rfl, rfl, hd⟩ | ⟨rfl, rfl⟩ | ⟨d, rfl, rfl, hne, h1, h2⟩⟩
  · obtain ⟨t, ht⟩ := Option.isSome_iff_exists.mp hd
    refine ⟨_, max s.part.now t, rfl, (running _).trans ?_⟩
    simp only [Part.onHomingDeadline, Part.sample, hst, ht]
    rfl
  · obtain ⟨t, ht⟩ := Option.isSome_iff_exists.mp hd
    refine ⟨_, max s.part.now t, rfl, (running _).trans ?_⟩
    simp only [Part.onTravelDeadline, Part.sample, hst, htgt, ht]
    rfl
  · refine ⟨_, s.part.now, rfl, (running _).trans ?_⟩
    simp only [Part.onCarriageHome, Part.sample, hst]
  · refine ⟨_, s.part.now, if_pos (binOk_iff.mpr ⟨h1, h2⟩), (running _).trans ?_⟩
    simp only [Part.onCarriageAt, Part.sample, hst, htgt, if_neg hne]

/-- Settles O31: the loss is recorded; the mode and the fatal action decide between a halt and a start. -/
theorem aLostCarriageHaltsOrRestarts : Obligations.ALostCarriageHaltsOrRestarts := by
  intro s c occ loc b hsettled hhalt hb hc e records
  obtain ⟨f, n, hexec, hf⟩ := exec_carriageLost hhalt hc
  let q : Part := { s.part.sample occ with now := n }
  obtain ⟨first, overwrote, counted, action, mask⟩ := s.part.faults.enter_fatal (e := e) rfl
  have record {t : State} (h1 : t.part.faults.first = (s.part.faults.enter e).first)
      (h2 : t.part.faults.later = (s.part.faults.enter e).later)
      (h3 : t.part.faults.overwritten = (s.part.faults.enter e).overwritten) : records t := by
    simp only [records, h1, h2, h3]
    exact ⟨first, overwrote, counted⟩
  have lost : f (s.part.sample occ) = _ := hf.trans (Part.carriageLost_eq q loc)
  refine ⟨fun h => ?_, fun hm ha => ?_⟩
  · have halts : f (s.part.sample occ) = (q.carriageRecorded loc).halt .carriageLost := lost.trans (if_pos h)
    obtain ⟨-, -, -, part⟩ := State.act_part (s := s.sample occ) (f := f) (by
      rw [show f (s.sample occ).part = _ from halts]
      exact congrArg Out.reset hsettled)
    rw [show f (s.sample occ).part = _ from halts] at part
    exact ⟨_, hexec, Part.halts_of_carriageLost part, record (by rw [part]; rfl) (by rw [part]; rfl) (by rw [part]; rfl)⟩
  · have starts : f (s.part.sample occ) = (q.carriageRecorded loc).startUp .selfRestart :=
      lost.trans (if_neg (not_or.mpr ⟨hm, by rw [show q.faults.fatalAction = _ from ha]; decide⟩))
    obtain ⟨part, hstarts⟩ := State.act_startUp (s := s.sample occ) starts
    obtain ⟨keeps, h1, h2, h3⟩ := Part.keeps_of_startUp (s := s) (by decide) part rfl rfl rfl action mask
    exact ⟨_, hexec, hstarts, keeps, record h1 h2 h3⟩

/-! ## O32: events that a mode ignores -/

theorem Part.unlessHalted_of_halted {p : Part} (h : p.ctl.mode = .halted) (f : Part → Part) : p.unlessHalted f = p := if_pos h

/-- Settles O32: HALTED passes no event on; the path and the conveyor take none out of their modes. -/
theorem haltedIgnoresEvents : Obligations.HaltedIgnoresEvents := by
  intro s b d occ on pl hsettled hb hd hpl p
  have act {f : Part → Part} {l : Lines} (h : f p = { p with lines := l }) :
      s.act f = { s with part := { p with lines := l } } := by
    have settled : (f s.part).Settled := by
      rw [show f s.part = _ from h]
      exact hsettled
    rw [State.act_settled settled, show f s.part = _ from h]
  have sampled {f : Part → Part} (h : f (p.sample occ) = p.sample occ) :
      (s.sample occ).act f = { s with part := p.sample occ } := by
    have settled : (f (s.sample occ).part).Settled := by
      rw [show f (s.sample occ).part = _ from h]
      exact hsettled
    rw [State.act_settled settled, show f (s.sample occ).part = _ from h]
    rfl
  have binOk : binOk b = true := binOk_iff.mpr hb
  have drawerOk : drawerOk d = true := drawerOk_iff.mpr hd
  have placeOk : placeOk pl = true := by
    rcases hpl with rfl | rfl
    · rfl
    · exact drawerOk
  refine ⟨fun hm => ?halted, fun hm => ?path, fun hm => ?conveyor⟩
  case halted =>
    have ignores {f : Part → Part} (l : Lines) (h : f p = { p with lines := l }) :
        ∃ l, (.next (s.act f) : Host.Outcome State Fault Refusal) = .next { s with part := { p with lines := l } } :=
      ⟨l, congrArg Host.Outcome.next (act h)⟩
    have ignoresSampled (f : Part → Part) :
        ∃ l, (.next ((s.sample occ).act fun p => p.unlessHalted f) : Host.Outcome State Fault Refusal) =
          .next { s with part := { p with lines := l } } :=
      ⟨_, congrArg Host.Outcome.next (sampled (Part.unlessHalted_of_halted (by exact hm) f))⟩
    have blocked (l : Lines) (f : Part → Part) : Part.unlessHalted { p with lines := l } f = { p with lines := l } :=
      Part.unlessHalted_of_halted (by exact hm) f
    have entry : p.onEntry = p := by simp [Part.onEntry, Part.quiet, hm]
    have deposit : p.onDeposit b = p := by simp [Part.onDeposit, Part.quiet, hm]
    have ticket : p.onTicketDeadline = p := by simp [Part.onTicketDeadline, Part.pathOpen, hm]
    have ready : p.onTransportReady = p := by simp [Part.onTransportReady, hm]
    have waking : p.onWakingDeadline = p := by simp [Part.onWakingDeadline, hm]
    have idle : p.onIdleTimerExpiry = p := by simp [Part.onIdleTimerExpiry, hm]
    have deposited : exec (.deposit b) s = .next (s.act fun p => p.onDeposit b) := if_pos binOk
    have emptied : exec (.binEmptied b) s =
        .next (s.act fun p => ({ p with lines := p.lines.clearBin b } : Part).unlessHalted fun p => p.onBinEmptied b) := if_pos binOk
    have carriage : exec (.carriageAt b occ) s =
        .next ((s.sample occ).act fun p => p.unlessHalted fun p => p.onCarriageAt b) := if_pos binOk
    have arrived : exec (.arrival pl) s = .next (s.act fun p => p.unlessHalted fun p => (p.arrive pl).examineIdle) := if_pos placeOk
    have collected : exec (.collected d) s =
        .next (s.act fun p => ({ p with lines := p.lines.clearDrawer d } : Part).unlessHalted fun p => p.onCollected d) :=
      if_pos drawerOk
    intro c hc
    simp only [List.mem_cons, List.not_mem_nil, or_false] at hc
    rcases hc with rfl | rfl | rfl | rfl | rfl | rfl | rfl | rfl | rfl | rfl | rfl | rfl | rfl | rfl | rfl | rfl | rfl | rfl | rfl |
      rfl | rfl | rfl | rfl | rfl | rfl | rfl | rfl | rfl
    case _ => exact ignores p.lines entry
    case _ => exact deposited ▸ ignores p.lines deposit
    case _ => exact ignores p.lines (blocked p.lines _)
    case _ => exact ignores _ (blocked _ _)
    case _ => exact ignores _ (blocked _ _)
    case _ => exact ignores p.lines ticket
    case _ => exact emptied ▸ ignores _ (blocked _ _)
    case _ => exact carriage ▸ ignoresSampled _
    case _ => exact ignoresSampled _
    case _ => exact ignores p.lines (blocked p.lines _)
    case _ => exact ignores p.lines (blocked p.lines _)
    case _ => exact ignoresSampled _
    case _ => exact ignoresSampled _
    case _ => exact ignores p.lines (blocked p.lines _)
    case _ => exact ignores p.lines (blocked p.lines _)
    case _ => exact ignores _ (blocked _ _)
    case _ => exact ignores _ (blocked _ _)
    case _ => exact arrived ▸ ignores p.lines (blocked p.lines _)
    case _ => exact ignores p.lines (blocked p.lines _)
    case _ => exact ignores _ (blocked _ _)
    case _ => exact collected ▸ ignores _ (blocked _ _)
    case _ => exact ignores p.lines ready
    case _ => exact ignores p.lines waking
    case _ => exact ignores p.lines idle
    case _ => exact ignores _ (blocked _ _)
    case _ => exact ignores _ (blocked _ _)
    case _ => exact ignores _ (blocked _ _)
    case _ => exact ignores _ (blocked _ _)
  case path =>
    have running : p.ctl.mode ≠ .halted := by
      rcases hm with hm | hm | hm
      · simp [hm]
      · simp [hm]
      · exact hm.2
    have closed : p.path.stopped = true ∨ (p.ctl.mode ≠ .automatic ∧ p.quiet = false) := by
      rcases hm with hm | hm | hm
      · exact .inr (by simp [Part.quiet, hm])
      · exact .inr (by simp [Part.quiet, hm])
      · exact .inl hm.1
    have entry : p.onEntry = p := by
      rcases closed with h | ⟨h1, h2⟩
      · simp [Part.onEntry, h]
      · simp [Part.onEntry, h1, h2]
    have deposit : p.onDeposit b = p := by
      rcases closed with h | ⟨h1, h2⟩
      · simp [Part.onDeposit, h]
      · simp [Part.onDeposit, h1, h2]
    have purged : p.onPurgeArrival = p.countPurge := by
      rcases closed with h | ⟨h1, h2⟩
      · exact if_pos h
      · have h2 : p.countPurge.quiet = false := h2
        have h1 : p.countPurge.ctl.mode ≠ .automatic := h1
        unfold Part.onPurgeArrival
        simp only [if_neg h1, h2, Bool.false_eq_true, if_false, ite_self]
    have deposited : exec (.deposit b) s = .next (s.act fun p => p.onDeposit b) := if_pos binOk
    have counted : s.act (fun p => p.unlessHalted Part.onPurgeArrival) = { s with part := p.countPurge } := by
      have e : s.part.unlessHalted Part.onPurgeArrival = p.countPurge := (if_neg running).trans purged
      rw [State.act_settled (by rw [e]; exact hsettled), e]
    exact ⟨congrArg Host.Outcome.next (act (l := p.lines) entry),
      deposited.trans (congrArg Host.Outcome.next (act (l := p.lines) deposit)), congrArg Host.Outcome.next counted⟩
  case conveyor =>
    have stays : p.unlessHalted (fun p => (p.arrive pl).examineIdle) = p := by
      have notAutomatic : p.ctl.mode ≠ .automatic := by
        rcases hm with hm | ⟨hm, -⟩ <;> simp [hm]
      have arrive : p.arrive pl = p := by
        rcases hm with hm | ⟨hm, hc | hc⟩
        · simp [Part.arrive, hm]
        · simp [Part.arrive, hm, hc]
        · simp [Part.arrive, hm, hc]
      unfold Part.unlessHalted
      dsimp only
      rw [arrive, Part.examineIdle_of_ne notAutomatic, ite_self]
    exact (if_pos placeOk).trans (congrArg Host.Outcome.next (act (l := p.lines) stays))

end Sys2Proof.Machine
end

section
/-! Levels, waking and idling, and the slip step. -/

namespace Sys2Proof.Machine

/-! ## Acts by the part they leave -/

/-- An act that leaves a settled part. -/
theorem State.act_of {s : State} {f : Part → Part} {q : Part} (e : f s.part = q) (hq : q.Settled) :
    s.act f = { s with part := q } := by
  subst e
  exact State.act_settled hq

/-- An act that leaves a part with notices, while a frame is in transmission. -/
theorem State.act_raises {s : State} {f : Part → Part} {q : Part} {ns : List Notice}
    (e : f s.part = { q with out := { reset := false, notices := ns } }) (hq : q.Settled)
    (hs : s.link.sending.isSome = true) (room : s.link.outbox.length + ns.length ≤ 32) :
    s.act f = ({ s with part := q } : State).queued ns := by
  rw [State.act_eq ns (by rw [e]) hs (.inr room), e]
  unfold Part.Settled at hq
  simp only [← hq]

theorem Part.unlessHalted_of_ne {p : Part} (h : p.ctl.mode ≠ .halted) (f : Part → Part) : p.unlessHalted f = f p := if_neg h

/-- A change that neither reads nor writes the fault block and the notices. -/
def Part.Blind (g : Part → Part) : Prop :=
  ∀ (p : Part) (f : FaultBlock) (o : Out), g { p with faults := f, out := o } = { g p with faults := f, out := o }

/-- R151: a latch can be made after such a change as before it. -/
theorem Part.Blind.latch {g : Part → Part} (h : Part.Blind g) (p : Part) (c : Condition) : g (p.latch c) = (g p).latch c := by
  have same : g p = { g p with faults := p.faults, out := p.out } := h p p.faults p.out
  rw [same]
  unfold Part.latch Part.raise
  dsimp only
  split
  · exact same
  · split
    · exact h p _ _
    · exact h p _ p.out

/-! ## Checks of empty queues -/

/-- R88: with no set waiting for its stitches the take check takes none. -/
theorem Part.takeCheck_of_empty {p : Part} (h : p.carriage.queue = []) : p.takeCheck = p := by
  simp [Part.takeCheck, h, Part.takeCheckN]

/-- R102: with no set finished there is none to choose. -/
theorem Part.choiceCheck_of_empty {p : Part} (h : p.conv.queue = []) : p.choiceCheck = p := by
  have same : ({ p with conv := { p.conv with queue := [] } } : Part) = p := by rw [← h]
  have notFull : Conveyor.fullLevel { p.conv with queue := [] } = false := rfl
  unfold Part.choiceCheck
  rw [h]
  simp only [testEntries, same, notFull, Bool.false_and, Part.latchIf, Bool.false_eq_true, if_false, ite_self]

/-- R140, R141: where the idle condition holds, a pending park parks and else the idle timer runs. -/
theorem Part.examineIdle_of_idle {p : Part} (hm : p.ctl.mode = .automatic) (hi : p.IdleCond) :
    p.examineIdle =
      if p.ctl.parkPending = true then p.park .park else if p.ctl.idleTimer.isNone = true then p.startIdleTimer else p := by
  rw [Part.examineIdle, if_pos hm, if_pos ((Part.idle_iff p).mpr hi)]

/-! ## O39: levels -/

/-- Settles O39: each level is noted; the slip stack running low outside STARTING is latched. -/
theorem levelEventsAreNoted : Obligations.LevelEventsAreNoted := by
  intro s hbusy hhalt p l
  have settled := hbusy.settled
  have noted {f : Part → Part} {q : Part} (e : f p = q) (hq : q.Settled) :
      (.next (s.act f) : Host.Outcome State Fault Refusal) = .next { s with part := q } :=
    congrArg Host.Outcome.next (State.act_of e hq)
  have runs (l : Lines) (f : Part → Part) : Part.unlessHalted { p with lines := l } f = f { p with lines := l } :=
    Part.unlessHalted_of_ne (by exact hhalt) f
  refine ⟨noted (runs _ _) settled, noted (runs _ _) settled, fun on => noted (runs _ _) settled, ⟨?_, fun hm => ?_, fun hm => ?_⟩,
    noted ((runs _ _).trans ?_) (by exact settled), noted (runs _ _) settled⟩
  · exact noted (runs _ _) settled
  · refine noted ((runs _ _).trans ?_) (by exact settled)
    simp [Part.onSlipLow, Part.latchIf, show p.ctl.mode = _ from hm, l]
  · refine congrArg Host.Outcome.next (State.act_latch _ ((runs _ _).trans ?_) (by exact settled) hbusy.sending hbusy.room)
    have reported : (true && p.ctl.mode != .starting) = true := by simpa using hm
    exact if_pos reported
  · simp only [Part.onDoorClosed]
    cases hd : p.ctl.doorCycle <;> simp [DoorCycle.closing, l]

/-! ## O41: waking and idling -/

/-- R142: in WAKING with empty queues only the idle condition is examined. -/
theorem Part.onTransportReady_of_empty {p : Part} (hm : p.ctl.mode = .waking) (hs : p.carriage.queue = [])
    (he : p.conv.queue = []) :
    p.onTransportReady = (Part.changeMode { p with ctl := { p.ctl with wakingDeadline := none } } .automatic .transportReady
      none).examineIdle := by
  rw [Part.onTransportReady, if_pos hm]
  dsimp only
  rw [Part.takeCheck_of_empty (by exact hs), Part.choiceCheck_of_empty (by exact he)]

/-- Settles O41: the end of WAKING by the idle condition, and the expiry of the idle timer. -/
theorem wakingAndIdlingEnd : Obligations.WakingAndIdlingEnd := by
  intro s hbusy p c modeNow automatic
  have settled : p.out = _ := hbusy.settled
  have room1 (n : Notice) : s.link.outbox.length + [n].length ≤ 32 := Nat.le_of_succ_le hbusy.room
  refine ⟨fun hm hs he => ?ready, fun t hm ht => ?expiry, fun hm => ?awake, fun h => ?stopped⟩
  case ready =>
    have ready := Part.onTransportReady_of_empty hm hs he
    have hm : p.ctl.mode = .waking := hm
    refine ⟨fun hi => ?_, fun hi hp => ?_, fun hi hp ht htime => ?_⟩
    · refine congrArg Host.Outcome.next (State.act_raises (ready.trans ?_) (by exact settled) hbusy.sending (room1 _))
      have busy : ¬ Part.IdleCond (Part.changeMode { p with ctl := { p.ctl with wakingDeadline := none } } .automatic
        .transportReady none) := fun k => hi ⟨k.1, k.2, k.3, k.4, k.5, k.6, k.7, k.8⟩
      rw [Part.examineIdle_of_not fun _ => busy]
      simp only [Part.changeMode, Part.raise, settled, hm, Part.unidled, if_true]
      rfl
    all_goals
      have woken : Part.IdleCond (Part.changeMode { p with ctl := { p.ctl with wakingDeadline := none } } .automatic
        .transportReady none) := ⟨hi.1, hi.2, hi.3, hi.4, hi.5, hi.6, hi.7, hi.8⟩
      rw [Part.examineIdle_of_idle rfl woken] at ready
    · refine congrArg Host.Outcome.next (State.act_raises (ready.trans ((if_pos hp).trans ?_)) (by exact settled) hbusy.sending
        hbusy.room)
      simp only [Part.park, Part.releaseGate, Part.changeMode, Part.raise, settled, hm]
      rfl
    · refine congrArg Host.Outcome.next (State.act_raises (ready.trans ((if_neg (Bool.eq_false_iff.mp (by exact hp))).trans ?_)) (by exact settled)
        hbusy.sending (room1 _))
      have stopped : p.ctl.idleTimer.isNone = true := by simp [show p.ctl.idleTimer = none from ht]
      refine (if_pos stopped).trans ?_
      simp only [Part.startIdleTimer, Part.changeMode, Part.raise, settled, hm]
      rw [if_neg (by exact htime)]
      rfl
  case expiry =>
    refine congrArg Host.Outcome.next (State.act_raises ?_ (by exact settled) hbusy.sending (room1 _))
    simp only [Part.onIdleTimerExpiry, show s.part.ctl.mode = _ from hm, show s.part.ctl.idleTimer = _ from ht]
    simp only [Part.reach, Part.park, Part.releaseGate, Part.changeMode, Part.raise, show s.part.out = _ from settled,
      show s.part.ctl.mode = _ from hm]
    rfl
  case awake => exact congrArg Host.Outcome.next (State.act_of (if_neg hm) hbusy.settled)
  case stopped =>
    refine congrArg Host.Outcome.next (State.act_of ?_ hbusy.settled)
    unfold Part.onIdleTimerExpiry
    split
    · next t hm ht =>
      rcases h with h | h
      · exact absurd hm h
      · rw [show s.part.ctl.idleTimer = none from h] at ht
        cases ht
    · rfl

/-! ## O46: the slip step -/

theorem Part.endSlip_blind (h : Header) : Part.Blind fun p => p.endSlip h := by
  intro p f o
  obtain ⟨_, _, _, _, _, _, _, _, _, ⟨_, _, trip, _, _, _, _⟩, _, _, _⟩ := p
  cases trip <;> rfl

/-- R104, R105: the end of the slip step starts the carry. -/
theorem Part.endSlip_of_trip {p : Part} {t : Trip} (ht : p.conv.trip = some t) (h : Header) :
    p.endSlip h = { p with
      path := { p.path with account := { p.path.account with
        inBins := p.path.account.inBins - BitVec.ofNat 32 t.sheets
        inReturn := p.path.account.inReturn + BitVec.ofNat 32 t.sheets } }
      conv := { p.conv with
        state := .carrying, feeder := .idle
        trip := some { t with header := some h, deadline := some (p.now + 5000) } } } := by
  unfold Part.endSlip Part.modTrip Part.startEjector Part.modAccount
  rw [ht]
  rfl

/-- Settles O46: the slip fed, or its deadline, then the carry. -/
theorem slipStepEnds : Obligations.SlipStepEnds := by
  intro s t hbusy hhalt ht p a carries
  have settled := hbusy.settled
  have runs (f : Part → Part) : p.unlessHalted f = f p := Part.unlessHalted_of_ne hhalt f
  refine ⟨fun hm => ⟨?fed, fun d hd => ?late⟩, fun hm => ⟨?fedElse, ?lateElse⟩⟩
  case fed =>
    refine congrArg Host.Outcome.next (State.act_of ((runs _).trans ?_) (by exact settled))
    exact (if_pos hm).trans (Part.endSlip_of_trip (by exact ht) .marked)
  case late =>
    refine congrArg Host.Outcome.next (State.act_latch _ ((runs _).trans ?_) (by exact settled) hbusy.sending hbusy.room)
    have deadline : p.conv.trip.bind Trip.deadline = some d := by
      rw [show p.conv.trip = _ from ht]
      exact hd
    simp only [Part.onSlipFeedDeadline, show p.conv.state = _ from hm, deadline]
    rw [(Part.endSlip_blind .unmarked).latch, Part.endSlip_of_trip (by exact ht)]
    rfl
  case fedElse => exact congrArg Host.Outcome.next (State.act_of ((runs _).trans (if_neg hm)) settled)
  case lateElse =>
    refine congrArg Host.Outcome.next (State.act_of ((runs _).trans ?_) settled)
    unfold Part.onSlipFeedDeadline
    split
    · next h _ => exact absurd h hm
    · rfl

end Sys2Proof.Machine
end

section
/-! The sort path: deposits and arrivals in the purge tray, the gate decision, and the run boundary. -/

namespace Sys2Proof.Machine

/-! ## Writing a bin -/

theorem Part.setBin_of {b : Nat} (hb : 1 ≤ b ∧ b ≤ 48) (p : Part) (r : Bin) :
    p.setBin b r = { p with bins := p.bins.set (b - 1) r (by have := hb; simp only [Config.numBins]; omega) } := dif_pos hb

/-- R59: of two writes of one bin the later stands. -/
theorem Part.setBin_setBin (p : Part) (b : Nat) (r t : Bin) : (p.setBin b r).setBin b t = p.setBin b t := by
  unfold Part.setBin
  split
  · simp
  · rfl

/-! ## Settling tickets -/

/-- R47, R50: the oldest ticket that fits is taken. -/
theorem takeTicket_of_first {f : Ticket → Bool} {t : Ticket} {ts us : List Ticket} (ht : f t = true) (hts : ∀ u ∈ ts, f u = false) :
    takeTicket f (ts ++ t :: us) = some (t, ts ++ us) := by
  have none : ts.find? f = none := List.find?_eq_none.mpr fun u hu => by simp [hts u hu]
  have kept : ∀ u ∈ ts, ¬ f u = true := fun u hu => by simp [hts u hu]
  simp [takeTicket, List.find?_append, none, ht, List.eraseP_append_right _ kept]

/-- R29: while a ticket names each run that settles, none is done. -/
theorem Part.completeSettled_of_named {p : Part} (h : ∀ r ∈ p.runs.finishing, p.ticketNames r.id = true) : p.completeSettled = p := by
  have gone : (p.runs.finishing.filter fun r => !p.ticketNames r.id) = [] :=
    List.filter_eq_nil_iff.mpr fun r hr => by simp [h r hr]
  have stay : (p.runs.finishing.filter fun r => p.ticketNames r.id) = p.runs.finishing := List.filter_eq_self.mpr h
  simp only [Part.completeSettled, gone, stay, Part.completeAll, List.foldl_nil]

theorem Part.ticketNames_iff {p : Part} {id : RunId} :
    p.ticketNames id = true ↔ ∃ t ∈ p.path.tickets, t.ref.map RunRef.run = some id := by
  simp [Part.ticketNames]

/-- R28: a settled sheet is told to its run; the runs that settle are still named by tickets. -/
theorem Part.reportSettled_of_named {p : Part} (ref : RunRef) (f : RunRef → Run → Run) (hid : ∀ r, (f ref r).id = r.id)
    (h : ∀ q ∈ p.runs.finishing, ∃ t ∈ p.path.tickets, t.ref.map RunRef.run = some q.id) :
    p.reportSettled (some ref) f = p.modRun ref.run (f ref) := by
  have ids (q : Run) : (if q.id = ref.run then f ref q else q).id = q.id := by
    split
    · exact hid q
    · rfl
  refine Part.completeSettled_of_named fun r hr => ?_
  obtain ⟨q, hq, rfl⟩ := List.mem_map.mp hr
  rw [ids]
  exact Part.ticketNames_iff.mpr (h q hq)

/-! ## O37: the purge tray -/

/-- Settles O37: the oldest purge ticket is taken, and its run is told. -/
theorem purgeArrivalSettlesTheSheet : Obligations.PurgeArrivalSettlesTheSheet := by
  intro s t reason ts us hsettled hm hrun htickets htgt hts hwork hfin p a settles
  have taken : takeTicket (fun t => t.target.isPurge) p.countPurge.path.tickets = some (t, ts ++ us) := by
    rw [show p.countPurge.path.tickets = _ from htickets]
    refine takeTicket_of_first (by simp [htgt, Target.isPurge]) fun u hu => ?_
    obtain ⟨b, hb⟩ := hts u hu
    simp [hb, Target.isPurge]
  have arrives : p.unlessHalted Part.onPurgeArrival = (p.countPurge.purgeSheet t (ts ++ us)).examineIdle := by
    rw [Part.unlessHalted_of_ne (by rw [show p.ctl.mode = _ from hm]; decide)]
    have running : p.countPurge.path.stopped = false := hrun
    have automatic : p.countPurge.ctl.mode = .automatic := hm
    simp only [Part.onPurgeArrival, running, Bool.false_eq_true, if_false, automatic, if_true, taken]
  let landed : Part := { p with
    path := { p.path with
      purgeCount := min 65535 (p.path.purgeCount + 1)
      tickets := ts ++ us, account := { a with inFlight := a.inFlight - 1, purged := a.purged + 1 } } }
  have finish {runs : RunCtl} (e : p.countPurge.purgeSheet t (ts ++ us) = { landed with runs := runs }) : settles runs := by
    refine congrArg Host.Outcome.next (State.act_of (arrives.trans ?_) (Part.unidled_settled hsettled))
    have work : Part.AtWork { landed with runs := runs } := hwork
    rw [e, work.examineIdle]
    unfold Part.unidled
    dsimp only
    split <;> rfl
  refine ⟨fun href => finish ?_, fun ref href => ?_⟩
  · simp only [Part.purgeSheet, href, Part.reportSettled]
    rfl
  · intro told
    refine finish ?_
    have told := Part.reportSettled_of_named (p := landed) ref
      (fun ref r => { r with purged := r.purged ++ [(ref.copy, t.target.reason)] }) (fun _ => rfl) hfin
    simp only [Part.purgeSheet, href]
    refine told.trans ?_
    simp only [htgt, Target.reason]
    rfl

/-! ## O36: deposits -/

/-- R62, R63: the bin after a sheet of page `page` at caliper `c` is laid in it. -/
def Bin.laid (r : Bin) (page c : Nat) : Bin :=
  { state := if r.state = .assigned then .filling else r.state
    set := { r.set with
      inboundSheets := r.set.inboundSheets - 1, inboundMicrons := r.set.inboundMicrons - c
      disordered := r.set.disordered || r.set.pages.any fun q => page < q
      pages := r.set.pages ++ [page], stack := r.set.stack + c } }

/-- R62, R63, R67: a deposited sheet is laid in its bin; a VOID bin counts its first sheet and, after its last, goes to eject. -/
theorem Part.appendSheet_eq {b : Nat} (hb : 1 ≤ b ∧ b ≤ 48) (p : Part) (page c : Nat) :
    p.appendSheet b page c =
      let q := p.setBin b ((p.bin b).laid page c)
      if (p.bin b).set.void = true then
        let q := if (p.bin b).state = .assigned then q.tallyVoided b else q
        if (p.bin b).set.inboundSheets - 1 = 0 then q.finishVoid b else q
      else q := by
  have ok := binOk_iff.mpr hb
  have laid : (if (p.bin b).state = .assigned then
      (p.modSet b fun s => { s with
        inboundSheets := s.inboundSheets - 1, inboundMicrons := s.inboundMicrons - c
        disordered := s.disordered || s.pages.any fun q => page < q
        pages := s.pages ++ [page], stack := s.stack + c }).setBinState b .filling
      else p.modSet b fun s => { s with
        inboundSheets := s.inboundSheets - 1, inboundMicrons := s.inboundMicrons - c
        disordered := s.disordered || s.pages.any fun q => page < q
        pages := s.pages ++ [page], stack := s.stack + c }) = p.setBin b ((p.bin b).laid page c) := by
    unfold Part.modSet Part.setBinState Bin.laid
    split
    · rw [Part.setBin_setBin, Part.bin_setBin_self _ _ ok]
    · rfl
  unfold Part.appendSheet
  dsimp only at laid ⊢
  rw [laid, Part.bin_setBin_self _ _ ok]
  have tallied (q : Part) : (if (p.bin b).state = .assigned then q.tallyVoided b else q).bin b = q.bin b := by
    split
    · exact Part.bin_congr (by simp) b
    · rfl
  simp only [tallied, Part.bin_setBin_self _ _ ok]
  rfl

/-- R67: a VOID set is counted for its job. -/
theorem Part.tallyVoided_eq (p : Part) (b : Nat) :
    p.tallyVoided b = { p with
      jobs := { p.jobs with
        jobs := p.jobs.jobs.map fun j =>
          if (p.bin b).set.job = some j.number then { j with tallies := { j.tallies with voided := j.tallies.voided + 1 } }
          else j } } := by
  unfold Part.tallyVoided Part.modJobOf Part.binJob
  cases (p.bin b).set.job with
  | none => simp
  | some n =>
    simp only [Part.modJob, Option.some.injEq, eq_comm (a := n)]
    rfl

/-- R67, R101: a VOID set goes to eject with the void plan; outside PARKED, with no choice to make, nothing else follows. -/
theorem Part.finishVoid_of {p : Part} {b : Nat} {r : Bin} (hb : 1 ≤ b ∧ b ≤ 48) (hr : p.bin b = r) (hm : p.ctl.mode ≠ .parked)
    (hc : p.ctl.mode = .automatic → p.conv.state ≠ .idle) :
    p.finishVoid b = { p.setBin b { state := .ejectWait, set := { r.set with void := true, plan := some voidPlan } } with
      conv := { p.conv with queue := p.conv.queue ++ [{ bin := b, placeable := none }] } } := by
  have ok := binOk_iff.mpr hb
  have written : (p.modSet b fun s => { s with void := true, plan := some voidPlan }).setBinState b .ejectWait =
      p.setBin b { state := .ejectWait, set := { r.set with void := true, plan := some voidPlan } } := by
    unfold Part.modSet Part.setBinState
    rw [Part.setBin_setBin, Part.bin_setBin_self _ _ ok, hr]
  unfold Part.finishVoid Part.joinEject
  dsimp only at written ⊢
  rw [written, Part.setBin_of hb]
  rw [Part.wake_of_ne (by exact hm), Part.choiceCheck_of_not (by exact hc)]
  rfl

/-- R28: a sheet of the only run that settles, its last, is told, and the run is done. -/
theorem Part.reportSettled_of_last {p : Part} {ref : RunRef} {q : Run} {f : RunRef → Run → Run} (hid : (f ref q).id = q.id)
    (hjob : (f ref q).job = q.job) (hfin : p.runs.finishing = [q]) (hq : q.id = ref.run)
    (hcur : ∀ x ∈ p.runs.current, x.id ≠ ref.run) (hts : ∀ t ∈ p.path.tickets, t.ref.map RunRef.run ≠ some q.id)
    (hj : ∀ j, p.job? q.job = some j → j.state ≠ .closing ∧ j.state ≠ .cancelling) :
    p.reportSettled (some ref) f = Part.raise { p with runs := { p.runs with finishing := [] } } (f ref q).done := by
  have current : p.runs.current.map (fun r => if r.id = ref.run then f ref r else r) = p.runs.current := by
    cases h : p.runs.current with
    | none => rfl
    | some x => simp [hcur x h]
  have told : p.modRun ref.run (f ref) = { p with runs := { p.runs with finishing := [f ref q] } } := by
    simp only [Part.modRun, current, hfin, List.map_cons, List.map_nil, hq, if_true]
  have landed : Part.ticketNames { p with runs := { p.runs with finishing := [f ref q] } } (f ref q).id = false := by
    rw [Bool.eq_false_iff, Ne, Part.ticketNames_iff, hid]
    rintro ⟨t, ht, h⟩
    exact hts t ht h
  simp only [Part.reportSettled, told, Part.completeSettled, List.filter_cons, List.filter_nil, landed, Bool.not_false,
    Bool.false_eq_true, if_true, if_false]
  exact Part.completeAll_one (by rw [hjob]; exact hj)

/-- Settles O36: the sheet laid in its bin, then told to its run. -/
theorem depositSettlesTheSheet : Obligations.DepositSettlesTheSheet := by
  intro s b t ts us hbusy hm hrun hb htickets htgt hts hwork p r page a laid rests settles
  have settled := hbusy.settled
  have hm : p.ctl.mode = .automatic := hm
  have notParked : p.ctl.mode ≠ .parked := by rw [hm]; decide
  have ok := binOk_iff.mpr hb
  have taken : takeTicket (fun t => t.target == .bin b) p.path.tickets = some (t, ts ++ us) := by
    rw [show p.path.tickets = _ from htickets]
    exact takeTicket_of_first (by simp [htgt]) fun u hu => by simpa using hts u hu
  have deposits : exec (.deposit b) s = .next (s.act fun p => p.onDeposit b) := if_pos ok
  have lands : p.onDeposit b = (p.deposit b t (ts ++ us)).examineIdle := by
    simp only [Part.onDeposit, show p.path.stopped = false from hrun, Bool.false_eq_true, if_false, hm, if_true, taken]
  let q : Part := { p with path := { p.path with
    tickets := ts ++ us, account := { a with inFlight := a.inFlight - 1, inBins := a.inBins + 1 } } }
  have reports : p.deposit b t (ts ++ us) =
      (q.appendSheet b page t.caliper).reportSettled t.ref fun _ r => { r with deposited := r.deposited + 1 } := rfl
  have appended := Part.appendSheet_eq hb q page t.caliper
  have sameLaid : (q.bin b).laid page t.caliper = laid := rfl
  rw [sameLaid] at appended
  have idled {bin : Bin} {jobs : JobTable} {conv : Conveyor} (runs : RunCtl) (o : Out)
      (hc : p.ctl.mode = .automatic → conv.state ≠ .idle) :
      Part.examineIdle { q.setBin b bin with jobs := jobs, runs := runs, conv := conv, out := o } =
        { (rests bin jobs conv runs).part with out := o } := by
    rw [Part.setBin_of hb]
    rw [Part.AtWork.examineIdle (by exact fun h => ⟨(hwork h).1, hc h⟩)]
    simp only [rests, Part.setBin_of hb, Part.unidled]
    split <;> rfl
  have conveyor : p.ctl.mode = .automatic → p.conv.state ≠ .idle := fun h => (hwork h).2
  have quiet (bin : Bin) (jobs : JobTable) (conv : Conveyor) (runs : RunCtl) : (rests bin jobs conv runs).part.Settled := by
    simpa [rests, Part.Settled] using settled
  refine ⟨fun ref href hfin => ?told, fun ref x href hv hfin hx hcur hus hj => ?last⟩
  case told =>
    intro told runs jobs
    have reported {bin : Bin} {jobs : JobTable} {conv : Conveyor} (hc : p.ctl.mode = .automatic → conv.state ≠ .idle)
        (e : q.appendSheet b page t.caliper = { q.setBin b bin with jobs := jobs, conv := conv }) :
        exec (.deposit b) s = .next (rests bin jobs conv runs) := by
      refine deposits.trans (congrArg Host.Outcome.next (State.act_of (lands.trans ?_) (quiet ..)))
      have unraised : { (rests bin jobs conv runs).part with out := p.out } = (rests bin jobs conv runs).part := by
        simp only [rests, Part.setBin_of hb]
      rw [reports, href, e, Part.setBin_of hb,
        Part.reportSettled_of_named ref (fun _ r => { r with deposited := r.deposited + 1 }) (fun _ => rfl) (by exact hfin)]
      refine Eq.trans ?_ ((idled runs p.out hc).trans unraised)
      rw [Part.setBin_of hb]
      rfl
    have tallied : (if (q.bin b).state = .assigned then (q.setBin b laid).tallyVoided b else q.setBin b laid) =
        { q.setBin b laid with jobs := jobs, conv := p.conv } := by
      have tally := (q.setBin b laid).tallyVoided_eq b
      rw [Part.bin_setBin_self _ _ ok] at tally
      simp only [jobs]
      change (if r.state = .assigned then _ else _) = _
      split
      · rw [tally, Part.setBin_of hb]
      · rw [Part.setBin_of hb]
    refine ⟨fun hv => reported conveyor ?_, fun hv hin => reported conveyor ?_, fun hv hin => reported conveyor ?_⟩
    · refine appended.trans ((if_neg (Bool.eq_false_iff.mp (by exact hv))).trans ?_)
      rw [Part.setBin_of hb]
    · refine appended.trans ((if_pos hv).trans ?_)
      dsimp only
      rw [tallied]
      exact if_neg (by have : r.set.inboundSheets = (q.bin b).set.inboundSheets := rfl; omega)
    · refine appended.trans ((if_pos hv).trans ?_)
      dsimp only
      rw [tallied, if_pos (by have : r.set.inboundSheets = (q.bin b).set.inboundSheets := rfl; omega)]
      have void : laid.set = { laid.set with void := true } := by
        rw [← show laid.set.void = true from hv]
      have reads : Part.bin { q.setBin b laid with jobs := jobs, conv := p.conv } b = laid :=
        (Part.bin_congr (by rfl) b).trans (q.bin_setBin_self laid ok)
      have finished := Part.finishVoid_of hb reads (by simpa using notParked) (by simpa using conveyor)
      refine finished.trans ?_
      rw [void]
      simp only [Part.setBin_of hb, Vector.set_set]
      rfl
  case last =>
    have plain : q.appendSheet b page t.caliper = q.setBin b laid := appended.trans (if_neg (Bool.eq_false_iff.mp (by exact hv)))
    refine deposits.trans (congrArg Host.Outcome.next (State.act_raises (lands.trans ?_) (quiet ..) hbusy.sending hbusy.room))
    rw [reports, href, plain, Part.setBin_of hb,
      Part.reportSettled_of_last (f := fun _ r => { r with deposited := r.deposited + 1 }) rfl rfl (by exact hfin) hx (by exact hcur)
        (by exact hus) (by exact hj)]
    refine Eq.trans ?_ (idled _ _ conveyor)
    rw [Part.setBin_of hb]
    simp only [Part.raise, q, show p.out = _ from settled, List.nil_append]
    rfl

/-! ## O34: the gate decision -/

theorem Part.isDuplicate_iff {p : Part} {b page : Nat} :
    p.isDuplicate b page = true ↔
      page ∈ (p.bin b).set.pages ∨ ∃ t ∈ p.path.tickets, t.target = .bin b ∧ t.ref.map RunRef.page = some page := by
  simp [Part.isDuplicate]

/-- R60: the room of a set, in sheets and in stack. -/
theorem binAccepts_iff {s : SetRecord} {c : Nat} :
    binAccepts s c = true ↔ s.pages.length + s.inboundSheets + 1 ≤ 60 ∧ s.stack + s.inboundMicrons + c ≤ 7000 := by
  rw [binAccepts, Bool.and_eq_true, decide_eq_true_iff, decide_eq_true_iff]
  exact Iff.rfl

/-- R60: a bin takes a sheet of caliper `c` within 60 sheets and 7000 um. -/
theorem Part.accepts_iff {p : Part} {b c : Nat} :
    p.accepts b c = true ↔
      (p.bin b).state ∈ [BinState.assigned, .filling] ∧
        (p.bin b).set.pages.length + (p.bin b).set.inboundSheets + 1 ≤ 60 ∧
        (p.bin b).set.stack + (p.bin b).set.inboundMicrons + c ≤ 7000 := by
  simp only [Part.accepts, Bool.and_eq_true, Bool.or_eq_true, beq_iff_eq, List.mem_cons, List.not_mem_nil, or_false]
  exact and_congr_right fun _ => binAccepts_iff

/-- The reference of a run's next sheet. -/
def Run.nextRef (r : Run) : RunRef := { run := r.id, job := r.job, page := r.page, copy := r.selected.getD r.assigned 0 }

/-- R41 to R44: the decision for a sheet of the CURRENT run whose copy has a bin. -/
theorem Part.decide_of_run {p : Part} {r : Run} {j : Job} {e : BinEntry} (hr : p.runs.current = some r)
    (hj : p.job? r.job = some j) (he : j.bins[r.selected.getD r.assigned 0 - 1]? = some e) :
    p.decide =
      { ref := some r.nextRef
        target :=
          if r.state = .draining then .purge .drain
          else if p.isDuplicate e.bin r.page = true then .purge .duplicate
          else if p.accepts e.bin (r.caliper.getD 0) = true then .bin e.bin
          else .purge .capacity
        caliper := r.caliper.getD 0 } := by
  have copy : (j.bins[r.nextCopy - 1]?) = some e := he
  simp only [Part.decide, hr, hj, Option.map_some, Option.getD_some, Job.binOfCopy, copy]
  rfl

/-- R40: a sheet at the open path with fewer than five tickets is decided. -/
theorem Part.onEntry_of_open {p : Part} (hm : p.ctl.mode = .automatic) (hrun : p.path.stopped = false)
    (h5 : p.path.tickets.length < 5) :
    p.onEntry = (p.enterSheet.latchIf p.decide.ref.isNone .straySheet).settleDecision p.decide := by
  have few : ¬ ticketLimit ≤ p.enterSheet.path.tickets.length := Nat.not_le.mpr h5
  rw [Part.onEntry, if_neg (Bool.eq_false_iff.mp hrun), if_pos hm]
  exact if_neg few

/-- R46: the sort path with one more sheet in flight. -/
def Part.ticketed (p : Part) (t : Ticket) : Part :=
  { p with path := { p.path with
      account := { p.path.account with inFlight := p.path.account.inFlight + 1 }
      tickets := p.path.tickets ++ [t], gate := gateOf t.target } }

/-- R46: the ticket of a decision. -/
def Part.ticketOf (p : Part) (d : Decision) : Ticket :=
  { ordinal := p.path.entryCount, ref := d.ref, target := d.target, caliper := d.caliper, deadline := p.now + 1500 }

theorem Part.recordTicket_of_run (p : Part) {d : Decision} (h : d.ref.isSome = true) :
    p.recordTicket d = (p.ticketed (p.ticketOf d)).assigned := by
  obtain ⟨x, hx⟩ := Option.isSome_iff_exists.mp h
  simp only [Part.recordTicket, hx]
  rw [← hx]
  rfl

/-- R26: a sheet short of the run's total. -/
theorem Part.assigned_of_short {p : Part} {r : Run} (hr : p.runs.current = some r) (h : r.assigned + 1 < r.selected.length) :
    p.assigned = { p with runs := { p.runs with current := some { r with assigned := r.assigned + 1 } } } := by
  have short : ¬ r.assigned + 1 = r.selected.length := by omega
  simp only [Part.assigned, hr, Run.total]
  exact if_neg short

/-- Settles O34: the decision, then its ticket, by the target. -/
theorem entryTicketsTheSheet : Obligations.EntryTicketsTheSheet := by
  intro s r j e hsettled hm hrun h5 hr hshort hj he p b c set duplicate takes tickets
  have hm : p.ctl.mode = .automatic := hm
  have decision := Part.decide_of_run hr hj he
  have known : p.decide.ref.isSome = true := by
    rw [decision]
    rfl
  have enters : p.onEntry = p.enterSheet.settleDecision p.decide := by
    rw [Part.onEntry_of_open hm hrun h5, Option.isNone_eq_false_iff.mpr known]
    rfl
  have duplicated : p.isDuplicate b r.page = true ↔ duplicate := Part.isDuplicate_iff
  have accepted : p.accepts b c = true ↔ takes := Part.accepts_iff
  -- the ticket of the sheet, and the run that is told, on any part that has the sheet entered
  have purged (reason : PurgeReason) (hfull : p.path.purgeFull = false)
      (htgt : p.decide = { ref := some r.nextRef, target := .purge reason, caliper := c }) : tickets p (.purge reason) .purge := by
    refine congrArg Host.Outcome.next (State.act_of (enters.trans ?_) (by exact hsettled))
    have room : p.enterSheet.path.purgeFull = false := hfull
    simp only [Part.settleDecision, htgt, room, Bool.false_eq_true, if_false]
    rw [Part.recordTicket_of_run _ rfl, Part.assigned_of_short (by exact hr) hshort, Part.examineIdle_of_current (by rfl)]
    exact if_pos hm
  refine ⟨fun hd hdup ht => ?_, fun hfull => ⟨fun hd => purged .drain hfull ?_, fun hd hdup => purged .duplicate hfull ?_,
    fun hd hdup ht => purged .capacity hfull ?_⟩⟩
  · have htgt : p.decide = { ref := some r.nextRef, target := .bin b, caliper := c } := by
      rw [decision, if_neg hd, if_neg (mt duplicated.mp hdup), if_pos (accepted.mpr ht)]
    refine congrArg Host.Outcome.next (State.act_of (enters.trans ?_) ?_)
    · simp only [Part.settleDecision, htgt]
      rw [Part.recordTicket_of_run _ rfl, Part.assigned_of_short (by simpa [Part.ticketed] using hr) hshort,
        Part.examineIdle_of_current (by rfl)]
      rw [Part.unidled, if_pos (by simpa [Part.ticketed] using hm)]
      unfold Part.reserve Part.modSet Part.setBin
      split <;> rfl
    · simpa [Part.Settled] using hsettled
  · rw [decision, if_pos hd]
  · rw [decision, if_neg hd, if_pos (duplicated.mpr hdup)]
  · rw [decision, if_neg hd, if_neg (mt duplicated.mp hdup), if_neg (mt accepted.mp ht)]

/-! ## O35: the run boundary and strays -/

/-- R26, R27: outside PARKED the PENDING run takes a free CURRENT slot, with the caliper of its stock. -/
theorem Part.promotePending_of_current {p : Part} (hm : p.ctl.mode ≠ .parked) (hc : p.runs.current = none) :
    p.promotePending = { p with runs := { p.runs with
      current := p.runs.pending.map fun q => { q with caliper := some (p.stockAt q.stock).caliper, state := .current }
      pending := none } } := by
  obtain ⟨now, lines, ctl, jobs, ⟨current, pending, finishing, nextId⟩, path, bins, stock, carriage, conv, drawers, faults, out⟩ := p
  simp only at hc
  subst hc
  cases pending with
  | none => rfl
  | some q => exact Part.wake_of_ne hm

/-- R26, R27, R13: the sheet that brings the run to its total, a ticket of the run being in flight: the run settles, a HOLDING
job is HELD, and outside PARKED the PENDING run is CURRENT. -/
theorem Part.assigned_of_last {p : Part} {r : Run} {j : Job} (hm : p.ctl.mode ≠ .parked) (hr : p.runs.current = some r)
    (h : r.assigned + 1 = r.selected.length) (hj : p.job? r.job = some j) (ht : p.ticketNames r.id = true) :
    let left : Part := { p with
      runs := { p.runs with
        current := p.runs.pending.map fun q => { q with caliper := some (p.stockAt q.stock).caliper, state := .current }
        pending := none
        finishing := p.runs.finishing ++ [{ r with assigned := r.assigned + 1, state := .finishing }] } }
    p.assigned =
      if j.state = .holding then
        { left with
          jobs := (p.setJobState j.number .held).jobs
          out := { p.out with notices := p.out.notices ++ [.jobHeld j.number] } }
      else left := by
  intro left
  have number : r.job = j.number := (Part.job?_number hj).symm
  let done : Run := { r with assigned := r.assigned + 1 }
  let out : Part := { p with runs := { p.runs with current := none, finishing := p.runs.finishing ++ [{ done with state := .finishing }] } }
  have leaves : p.assigned = (out.runLeftSlot r.job).promotePending := by
    simp only [Part.assigned, hr, Run.total]
    refine (if_pos h).trans ?_
    have named : Part.ticketNames { p with runs := { p.runs with current := none } } done.id = true := ht
    simp only [Part.leaveSlot]
    exact congrArg (fun x : Part => (x.runLeftSlot r.job).promotePending) (if_pos named)
  have sameJobs (n : Nat) : out.job? n = p.job? n := rfl
  rw [leaves]
  unfold Part.runLeftSlot
  rw [sameJobs, hj]
  dsimp only
  split
  · rw [Part.promotePending_of_current (by exact hm) (by rfl), number]
    rfl
  · rw [Part.promotePending_of_current (by exact hm) (by rfl)]
    rfl

theorem Part.recordTicket_stray_blind {d : Decision} (h : d.ref = none) : Part.Blind fun p => p.recordTicket d := by
  intro p f o
  simp only [Part.recordTicket, h]
  rfl

/-- Settles O35: the sheet of the run's total, and the sheet without a run. -/
theorem entryAtTheRunBoundary : Obligations.EntryAtTheRunBoundary := by
  intro s hbusy hm hrun h5 p tickets
  have hm : p.ctl.mode = .automatic := hm
  have settled := hbusy.settled
  have opened := Part.onEntry_of_open hm hrun h5
  refine ⟨?last, fun hcur hfull => ?stray⟩
  case last =>
    intro r j e hr hlast hd hj he b c set ref runs leaves hpage hdup hst hsheets hstack
    have decision : p.decide = { ref := some r.nextRef, target := .bin b, caliper := c } := by
      rw [Part.decide_of_run hr hj he, if_neg hd, if_neg (mt Part.isDuplicate_iff.mp ?_),
        if_pos (Part.accepts_iff.mpr ⟨hst, hsheets, hstack⟩)]
      rintro (h | ⟨t, ht, h⟩)
      · exact hpage h
      · exact hdup t ht h
    have enters : p.onEntry = (((p.enterSheet.reserve b c).recordTicket p.decide)).examineIdle := by
      rw [opened]
      simp only [decision]
      rfl
    let q : Part := (p.enterSheet.reserve b c).ticketed ((p.enterSheet.reserve b c).ticketOf p.decide)
    have recorded : (p.enterSheet.reserve b c).recordTicket p.decide = q.assigned :=
      Part.recordTicket_of_run _ (by rw [decision]; rfl)
    have recent : q.path.tickets = p.path.tickets ++ [(p.enterSheet.reserve b c).ticketOf p.decide] := by
      simp [q, Part.ticketed, Part.enterSheet]
    have named : q.ticketNames r.id = true := by
      refine Part.ticketNames_iff.mpr ⟨(p.enterSheet.reserve b c).ticketOf p.decide, by rw [recent]; simp, ?_⟩
      simp [Part.ticketOf, decision, Run.nextRef]
    have table : q.jobs = p.jobs := by simp [q, Part.ticketed, Part.enterSheet]
    have automatic : q.ctl.mode = .automatic := by simpa [q, Part.ticketed, Part.enterSheet] using hm
    have last := Part.assigned_of_last (p := q) (r := r) (j := j) (by rw [automatic]; decide)
      (by simpa [q, Part.ticketed, Part.enterSheet] using hr) hlast (by simpa [Part.job?, table] using hj) named
    have landed (jobs : JobTable) (o : Out) :
        Part.examineIdle { q with
          jobs := jobs, out := o
          runs := { q.runs with
            current := q.runs.pending.map fun x => { x with caliper := some (q.stockAt x.stock).caliper, state := .current }
            pending := none
            finishing := q.runs.finishing ++ [{ r with assigned := r.assigned + 1, state := .finishing }] } } =
          { (leaves jobs).part with out := o } := by
      rw [Part.examineIdle_of_finishing (by simp), Part.unidled, if_pos (by exact automatic)]
      simp only [leaves, q, decision, Part.ticketed, Part.ticketOf, Part.reserve, Part.modSet, Part.setBin]
      split <;> rfl
    have quiet (jobs : JobTable) : (leaves jobs).part.out = { reset := false, notices := [] } := by
      simpa [leaves, tickets, Part.Settled] using settled
    have silent : q.out = { reset := false, notices := [] } := by
      simpa [q, Part.ticketed, Part.enterSheet, Part.Settled] using settled
    rw [recorded, last] at enters
    refine ⟨fun hh => congrArg Host.Outcome.next (State.act_of ?_ (quiet _)),
      fun hh => congrArg Host.Outcome.next (State.act_raises ?_ (quiet _) hbusy.sending hbusy.room)⟩
    · rw [if_neg hh] at enters
      have same : { (leaves p.jobs).part with out := q.out } = (leaves p.jobs).part := by rw [silent, ← quiet p.jobs]
      exact enters.trans ((landed q.jobs q.out).trans (by rw [table, same]))
    · rw [if_pos hh, silent] at enters
      have held : (q.setJobState j.number .held).jobs = (p.setJobState j.number .held).jobs := by
        simp only [Part.setJobState, Part.modJob, table]
      exact enters.trans ((landed _ _).trans (by rw [held]; rfl))
  case stray =>
    have decision : p.decide = { ref := none, target := .purge .stray, caliper := 0 } := by
      simp only [Part.decide, show p.runs.current = none from hcur]
    have room : (p.enterSheet.latch .straySheet).path.purgeFull = false := by
      have vacant : p.enterSheet.path.purgeFull = false := hfull
      simpa using vacant
    let q : Part := p.enterSheet.ticketed (p.enterSheet.ticketOf p.decide)
    have recorded : p.enterSheet.recordTicket p.decide = q := by
      simp only [Part.recordTicket, decision]
      simp only [q, decision]
      rfl
    have enters : p.onEntry = (q.latch .straySheet).unidled := by
      rw [opened, ← recorded]
      simp only [decision, Option.isNone_none, Part.latchIf, if_true, Part.settleDecision, room, Bool.false_eq_true, if_false]
      rw [(Part.recordTicket_stray_blind rfl).latch]
      refine Part.examineIdle_of_not fun _ hi => ?_
      have recent := hi.tickets
      rw [← decision, recorded] at recent
      simp [q, Part.ticketed] at recent
    have idled : Part.Blind Part.unidled := by
      intro x f o
      unfold Part.unidled
      dsimp only
      split <;> rfl
    refine congrArg Host.Outcome.next (State.act_latch _ ((enters.trans (idled.latch q .straySheet)).trans ?_)
      (by exact settled) hbusy.sending hbusy.room)
    refine congrArg (fun x : Part => x.latch .straySheet) ?_
    rw [Part.unidled, if_pos (by exact hm)]
    simp only [q, decision]
    rfl

end Sys2Proof.Machine
end

section
/-! The loss of the tickets on an entry to SERVICE where no VOID bin and no closing job is touched (R54), and the entry itself. -/

namespace Sys2Proof.Machine

/-! ## Reservations of lost tickets -/

theorem Part.setBin_bins (p : Part) (b : Nat) (r : Bin) : p.setBin b r = { p with bins := (p.setBin b r).bins } := by
  unfold Part.setBin
  split <;> rfl

/-- R64: a bin whose lost tickets `mine` give their reservations back. -/
def Bin.losing (r : Bin) (mine : List Ticket) : Bin :=
  { r with set := { r.set with
      inboundSheets := r.set.inboundSheets - mine.length
      inboundMicrons := r.set.inboundMicrons - (mine.map Ticket.caliper).sum } }

theorem Bin.losing_nil (r : Bin) : r.losing [] = r := rfl

theorem Bin.losing_cons (r : Bin) (x : Ticket) (xs : List Ticket) : (r.losing [x]).losing xs = r.losing (x :: xs) := by
  simp only [Bin.losing, List.length_cons, List.length_nil, List.map_cons, List.map_nil, List.sum_cons, List.sum_nil, Nat.sub_sub]
  congr 2
  omega

/-- R64: the reservation of a lost ticket for a bin that is not VOID. -/
theorem Part.loseReservation_of_bin {p : Part} {x : Ticket} {c : Nat} (hx : x.target = .bin c) (hv : (p.bin c).set.void = false) :
    p.loseReservation x = p.setBin c ((p.bin c).losing [x]) := by
  have kept : ((p.modSet c fun s =>
      { s with inboundSheets := s.inboundSheets - 1, inboundMicrons := s.inboundMicrons - x.caliper }).bin c).set.void = false := by
    rw [Part.bin_modSet]
    split <;> exact hv
  unfold Part.loseReservation Part.releaseReservation
  rw [hx]
  dsimp only
  rw [kept]
  exact if_neg (by simp)

/-- R54, R64: the reservations of the lost tickets, none of them for a VOID bin. -/
theorem Part.foldl_loseReservation (ts : List Ticket) {p : Part}
    (hv : ∀ x ∈ ts, ∀ b, x.target = .bin b → (p.bin b).set.void = false) :
    ∃ bins, ts.foldl Part.loseReservation p = { p with bins := bins } ∧
      ∀ b, Part.bin { p with bins := bins } b = (p.bin b).losing (ts.filter fun x => x.target = .bin b) := by
  induction ts generalizing p with
  | nil => exact ⟨p.bins, rfl, fun b => rfl⟩
  | cons x xs ih =>
    rw [List.foldl_cons]
    cases hx : x.target with
    | purge r =>
      have lost : p.loseReservation x = p := by simp only [Part.loseReservation, hx]
      obtain ⟨bins, hbins, hread⟩ := ih fun y hy => hv y (List.mem_cons_of_mem _ hy)
      refine ⟨bins, by rw [lost, hbins], fun b => (hread b).trans ?_⟩
      rw [List.filter_cons_of_neg (by simp [hx])]
    | bin c =>
      have lost := Part.loseReservation_of_bin hx (hv x List.mem_cons_self c hx)
      let q := p.setBin c ((p.bin c).losing [x])
      have read (b : Nat) : q.bin b = if c = b then (p.bin b).losing [x] else p.bin b := by
        simp only [q, Part.bin_setBin]
        by_cases hb : c = b
        · subst hb
          by_cases ok : binOk c = true
          · simp [ok]
          · have outside : p.bin c = Bin.free := by
              unfold Part.bin
              exact dif_neg (by simpa [binOk] using ok)
            simp [ok, outside, Bin.losing, Bin.free]
        · simp [hb, Ne.symm hb]
      have void : ∀ y ∈ xs, ∀ b, y.target = .bin b → (q.bin b).set.void = false := by
        intro y hy b hyb
        have := hv y (List.mem_cons_of_mem _ hy) b hyb
        rw [read]
        split <;> exact this
      obtain ⟨bins, hbins, hread⟩ := ih void
      refine ⟨bins, ?_, fun b => ?_⟩
      · rw [lost, hbins]
        change { p.setBin c ((p.bin c).losing [x]) with bins := bins } = _
        rw [Part.setBin_bins]
      · have same : Part.bin { p with bins := bins } b = Part.bin { q with bins := bins } b := rfl
        rw [same, hread, read]
        by_cases hb : c = b
        · rw [if_pos hb, List.filter_cons_of_pos (by simp [hx, hb]), Bin.losing_cons]
        · rw [if_neg hb, List.filter_cons_of_neg (by simp [hx, hb])]

/-! ## Runs of lost tickets -/

theorem Run.losing_nil (r : Run) : r.losing [] = r := by simp [Run.losing]

/-- R54: the runs of the lost tickets are told of their copies. -/
theorem Part.foldl_reportLost (ts : List Ticket) (p : Part) :
    ts.foldl Part.reportLost p = { p with runs := { p.runs with
      current := p.runs.current.map fun r => r.losing ts, finishing := p.runs.finishing.map fun r => r.losing ts } } := by
  induction ts generalizing p with
  | nil => simp [Run.losing_nil]
  | cons x xs ih =>
    rw [List.foldl_cons, ih]
    cases hx : x.ref with
    | none =>
      have told (r : Run) : r.losing xs = r.losing (x :: xs) := by simp [Run.losing, hx]
      simp only [Part.reportLost, hx, told]
    | some ref =>
      have told (r : Run) : (if r.id = ref.run then { r with lost := r.lost ++ [ref.copy] } else r).losing xs = r.losing (x :: xs) := by
        by_cases h : r.id = ref.run
        · simp [Run.losing, hx, h, Option.filter]
        · simp [Run.losing, hx, h, Ne.symm h, Option.filter]
      simp only [Part.reportLost, hx, Part.modRun, Option.map_map, List.map_map, Function.comp_def, told]

/-- R29, R30: the runs given are done, in order, where their departure moves no job. -/
theorem Part.completeAll_plain {p : Part} {rs : List Run}
    (hj : ∀ r ∈ rs, ∀ j, p.job? r.job = some j → j.state ≠ .closing ∧ j.state ≠ .cancelling) :
    p.completeAll rs = { p with out := { p.out with notices := p.out.notices ++ rs.map Run.done } } := by
  have raised (q : Part) (rs : List Run) : rs.foldl (fun p r => p.raise r.done) q =
      { q with out := { q.out with notices := q.out.notices ++ rs.map Run.done } } := by
    induction rs generalizing q with
    | nil => simp
    | cons r rs ih =>
      rw [List.foldl_cons, ih]
      simp [Part.raise]
  have departed (q : Part) (rs : List Run)
      (hq : ∀ r ∈ rs, ∀ j, q.job? r.job = some j → j.state ≠ .closing ∧ j.state ≠ .cancelling) :
      rs.foldl (fun p r => p.runDeparted r.job) q = q := by
    induction rs with
    | nil => rfl
    | cons r rs ih =>
      rw [List.foldl_cons, Part.runDeparted_of (hq r List.mem_cons_self)]
      exact ih fun x hx => hq x (List.mem_cons_of_mem _ hx)
  unfold Part.completeAll
  rw [raised, departed _ _ (by exact hj)]

/-- R29: with no ticket in flight every run that settles is done. -/
theorem Part.completeSettled_of_landed {p : Part} (ht : p.path.tickets = [])
    (hj : ∀ r ∈ p.runs.finishing, ∀ j, p.job? r.job = some j → j.state ≠ .closing ∧ j.state ≠ .cancelling) :
    p.completeSettled = { p with
      runs := { p.runs with finishing := [] }
      out := { p.out with notices := p.out.notices ++ p.runs.finishing.map Run.done } } := by
  have named (r : Run) : p.ticketNames r.id = false := by simp [Part.ticketNames, ht]
  have gone : (p.runs.finishing.filter fun r => !p.ticketNames r.id) = p.runs.finishing := by simp [named]
  have stay : (p.runs.finishing.filter fun r => p.ticketNames r.id) = [] := by simp [named]
  unfold Part.completeSettled
  rw [gone, stay]
  exact Part.completeAll_plain (by exact hj)

/-! ## The entry to SERVICE -/

/-- R54, R55: what the loss of the tickets tells. -/
def Part.lossNotices (p : Part) (before : Mode) : List Notice :=
  (if p.path.tickets = [] ∧ p.path.unticketed = 0 then [] else [pathLossOf p.path.tickets p.path.unticketed before]) ++
    p.runs.finishing.map fun r => (r.losing p.path.tickets).done

/-- R54: the loss of the tickets, no VOID bin and no closing or cancelled job being touched. -/
theorem Part.loseTickets_plain {p : Part} (before : Mode)
    (hv : ∀ x ∈ p.path.tickets, ∀ b, x.target = .bin b → (p.bin b).set.void = false)
    (hj : ∀ r ∈ p.runs.finishing, ∀ j, p.job? r.job = some j → j.state ≠ .closing ∧ j.state ≠ .cancelling) :
    ∃ bins, (∀ b, Part.bin { p with bins := bins } b = (p.bin b).losing (p.path.tickets.filter fun x => x.target = .bin b)) ∧
      p.loseTickets before = { p with
        runs := { p.runs with current := p.runs.current.map fun r => r.losing p.path.tickets, finishing := [] }
        path := { p.path with
          tickets := [], account := p.path.account.flightToLost p.path.tickets.length, unticketed := 0, stopped := false
          gate := .released }
        bins := bins
        out := { p.out with notices := p.out.notices ++ p.lossNotices before } } := by
  have told : (if p.path.tickets ≠ [] ∨ 0 < p.path.unticketed then p.raise (pathLossOf p.path.tickets p.path.unticketed before) else p) =
      { p with out := { p.out with notices := p.out.notices ++
        if p.path.tickets = [] ∧ p.path.unticketed = 0 then [] else [pathLossOf p.path.tickets p.path.unticketed before] } } := by
    by_cases h : p.path.tickets = [] ∧ p.path.unticketed = 0
    · simp [h]
    · have h' : p.path.tickets ≠ [] ∨ 0 < p.path.unticketed := by
        by_contra k
        exact h ⟨by_contra fun x => k (.inl x), Nat.eq_zero_of_not_pos fun x => k (.inr x)⟩
      rw [if_pos h', if_neg h]
      rfl
  unfold Part.loseTickets
  dsimp only
  rw [told]
  obtain ⟨bins, hbins, hread⟩ := Part.foldl_loseReservation p.path.tickets (p := Part.modAccount
    { p with
      path := { p.path with tickets := [] }
      out := { p.out with notices := p.out.notices ++
        if p.path.tickets = [] ∧ p.path.unticketed = 0 then [] else [pathLossOf p.path.tickets p.path.unticketed before] } }
    fun a => a.flightToLost p.path.tickets.length) hv
  refine ⟨bins, hread, ?_⟩
  have loses := hbins
  simp only [Part.modAccount] at loses ⊢
  rw [loses, Part.foldl_reportLost, Part.completeSettled_of_landed (by rfl) ?_]
  · simp [Part.lossNotices, List.map_map, Function.comp_def]
  · intro r hr j
    obtain ⟨q, hq, rfl⟩ := List.mem_map.mp hr
    exact hj q hq j

theorem Part.carriageService_eq (p : Part) : p.carriageService = { p with carriage := p.carriage.intoService p.carriage.queue } := by
  unfold Part.carriageService Carriage.intoService Part.stopDrive
  split <;> rfl

theorem Part.stopConveyor_eq (p : Part) : p.stopConveyor = { p with conv := p.conv.intoService p.conv.queue } := by
  obtain ⟨_, _, _, _, _, _, _, _, _, ⟨_, state, _, _, _, _, _⟩, _, _, _⟩ := p
  cases state <;> rfl

/-- R54, R136: an entry to SERVICE, no VOID bin and no closing or cancelled job being touched. -/
theorem Part.enterService_plain {p : Part} (cause : ModeCause) (fault : Option FaultKind)
    (hv : ∀ x ∈ p.path.tickets, ∀ b, x.target = .bin b → (p.bin b).set.void = false)
    (hj : ∀ r ∈ p.runs.finishing, ∀ j, p.job? r.job = some j → j.state ≠ .closing ∧ j.state ≠ .cancelling) :
    ∃ bins, (∀ b, Part.bin { p with bins := bins } b = (p.bin b).losing (p.path.tickets.filter fun x => x.target = .bin b)) ∧
      p.enterService cause fault = { p with
        ctl := { p.ctl with mode := .service, parkPending := false, idleTimer := none, wakingDeadline := none }
        runs := { p.runs with current := p.runs.current.map fun r => r.losing p.path.tickets, finishing := [] }
        path := { p.path with
          tickets := [], account := p.path.account.flightToLost p.path.tickets.length, unticketed := 0, stopped := false
          gate := .released }
        bins := bins
        carriage := p.carriage.intoService p.carriage.queue
        conv := p.conv.intoService p.conv.queue
        out := { p.out with
          notices := p.out.notices ++ [.modeNow .service (some p.ctl.mode) cause fault p.ctl.doorOpen p.ctl.keyOn] ++
            p.lossNotices p.ctl.mode } } := by
  let q : Part := Part.changeMode
    { p with ctl := { p.ctl with parkPending := false, idleTimer := none, wakingDeadline := none } } .service cause fault
  obtain ⟨bins, hread, hloses⟩ := Part.loseTickets_plain (p := q) p.ctl.mode hv hj
  refine ⟨bins, hread, ?_⟩
  have enters : p.enterService cause fault = ((q.loseTickets p.ctl.mode).carriageService).stopConveyor := rfl
  rw [enters, hloses, Part.carriageService_eq, Part.stopConveyor_eq]
  rfl

theorem Conveyor.intoService_of_slip {c : Conveyor} (h : c.state = .slip) (x : List EjectEntry) :
    c.intoService x = { c with
      queue := x, state := .stopped, feeder := .idle
      trip := c.trip.map fun t => { t with header := some .pending, deadline := none } } := by
  simp only [Conveyor.intoService, h]

theorem Conveyor.intoService_of_carrying {c : Conveyor} (h : c.state = .carrying) (x : List EjectEntry) :
    c.intoService x = { c with queue := x, state := .stopped, trip := c.trip.map fun t => { t with deadline := none } } := by
  simp only [Conveyor.intoService, h]

theorem Conveyor.intoService_of_rest {c : Conveyor} (h : c.state = .idle ∨ c.state = .stopped) (x : List EjectEntry) :
    c.intoService x = { c with queue := x } := by
  rcases h with h | h <;> simp only [Conveyor.intoService, h]

/-- R136: an act that enters SERVICE. -/
theorem State.act_enterService {s : State} {f : Part → Part} {q : Part} {cause : ModeCause} {fault : Option FaultKind}
    (e : f s.part = q.enterService cause fault) (reset : q.out.reset = false) (hcarriage : q.carriage = s.part.carriage)
    (hconv : ∀ x, q.conv.intoService x = s.part.conv.intoService x) (htickets : q.path.tickets = s.part.path.tickets)
    (hdrawers : q.drawers = s.part.drawers) (hstock : q.stock = s.part.stock) :
    EntersService s (s.act f) q.path.account ∧
      (s.act f).part.ctl = { q.ctl with mode := .service, parkPending := false, idleTimer := none, wakingDeadline := none } ∧
      (s.act f).part.faults = q.faults.sameRecord (s.act f).part.faults := by
  obtain ⟨-, -, ctl, path, stock, drawers, carriage, conv, faults, hreset⟩ := q.enterService_spec cause fault
  rw [← e] at ctl path stock drawers carriage conv faults hreset
  obtain ⟨-, -, -, part⟩ := State.act_part (s := s) (f := f) (hreset.trans reset)
  have hctl := congrArg Part.ctl part
  have hpath := congrArg Part.path part
  have hcar := congrArg Part.carriage part
  have hcon := congrArg Part.conv part
  have hdra := congrArg Part.drawers part
  have hsto := congrArg Part.stock part
  have hfau := congrArg Part.faults part
  dsimp only at hctl hpath hcar hcon hdra hsto hfau
  rw [ctl] at hctl
  rw [path] at hpath
  rw [hcarriage] at carriage
  rw [hconv] at conv
  refine ⟨?_, hctl, ?_⟩
  · constructor
    case mode => rw [hctl]
    case timers => rw [hctl]; exact ⟨rfl, rfl, rfl⟩
    case tickets => rw [hpath]; exact ⟨rfl, rfl, rfl⟩
    case gate => rw [hpath]
    case account => rw [hpath, htickets]; rfl
    case travel => exact fun h => (hcar.trans carriage).trans (by rw [Carriage.intoService, if_pos h, hcar])
    case still => exact fun h => (hcar.trans carriage).trans (by rw [Carriage.intoService, if_neg h, hcar])
    case slip => exact fun h => (hcon.trans conv).trans (by rw [Conveyor.intoService_of_slip h, hcon])
    case carry => exact fun h => (hcon.trans conv).trans (by rw [Conveyor.intoService_of_carrying h, hcon])
    case rest => exact fun h => (hcon.trans conv).trans (by rw [Conveyor.intoService_of_rest h, hcon])
    case drawers => rw [hdra, drawers, hdrawers]
    case stock => rw [hsto, stock, hstock]
  · exact FaultBlock.sameRecord_trans faults hfau

/-- R54: an act that enters SERVICE, the loss of the tickets being plain. -/
theorem State.act_losesTickets {s : State} {f : Part → Part} {q : Part} {cause : ModeCause} {fault : Option FaultKind} {ns : List Notice}
    (h : LosesPlainly s) (e : f s.part = q.enterService cause fault) (hout : q.out = { reset := false, notices := ns })
    (hns : ns.length ≤ 1) (hjobs : q.jobs = s.part.jobs) (hruns : q.runs = s.part.runs) (hbins : q.bins = s.part.bins)
    (htickets : q.path.tickets = s.part.path.tickets) (hstitches : q.carriage.queue = s.part.carriage.queue)
    (hejects : q.conv.queue = s.part.conv.queue) (hmode : q.ctl.mode = s.part.ctl.mode) :
    LosesTickets s (s.act f) q.path.unticketed
      (ns ++ [.modeNow .service (some q.ctl.mode) cause fault q.ctl.doorOpen q.ctl.keyOn]) := by
  have read (b : Nat) : q.bin b = s.part.bin b := Part.bin_congr hbins b
  have table (n : Nat) : q.job? n = s.part.job? n := by simp only [Part.job?, hjobs]
  obtain ⟨bins, hread, enters⟩ := Part.enterService_plain (p := q) cause fault
    (by rw [htickets]; exact fun x hx b hb => read b ▸ h.bins x hx b hb)
    (by rw [hruns]; exact fun r hr j hj => h.jobs r hr j (table _ ▸ hj))
  have loss : (q.lossNotices q.ctl.mode).length ≤ s.part.runs.finishing.length + 1 := by
    unfold Part.lossNotices
    rw [hruns, List.length_append, List.length_map]
    split <;> simp
    omega
  have room : s.link.outbox.length +
      (ns ++ [Notice.modeNow .service (some q.ctl.mode) cause fault q.ctl.doorOpen q.ctl.keyOn] ++
        q.lossNotices q.ctl.mode).length ≤ 32 := by
    have := h.room
    simp only [List.length_append, List.length_cons, List.length_nil]
    omega
  have act := State.act_raises (f := f) (q := { f s.part with out := { reset := false, notices := [] } })
    (by rw [e, enters, hout]) (by rfl) h.sending room
  rw [e, enters] at act
  rw [act]
  constructor
  case jobs => exact hjobs
  case runs =>
    change { q.runs with current := q.runs.current.map fun r : Run => r.losing q.path.tickets, finishing := [] } = _
    rw [hruns, htickets]
  case bins =>
    intro b
    refine (hread b).trans ?_
    rw [read, htickets]
    rfl
  case queues =>
    refine ⟨?_, ?_⟩
    · change (q.carriage.intoService q.carriage.queue).queue = _
      unfold Carriage.intoService
      split <;> exact hstitches
    · change (q.conv.intoService q.conv.queue).queue = _
      unfold Conveyor.intoService
      split <;> exact hejects
  case notices =>
    refine congrArg (fun l => (s.queued l).link) ?_
    rw [Part.lossNotices, hruns, htickets, hmode, ← List.append_assoc]
    rfl

/-- R147: a recoverable fault, in the record. -/
theorem RecordsFault.of_enter {s t : State} {g : FaultBlock} {e : FaultEntry} (h : isFatal e.kind = false)
    (hg : g = s.part.faults.sameRecord g) (ht : t.part.faults = (g.enter e).sameRecord t.part.faults) : RecordsFault s t e := by
  obtain ⟨empty, full⟩ := g.enter_recoverable e h
  have first : g.first = s.part.faults.first := by rw [hg]; rfl
  have later : g.later = s.part.faults.later := by rw [hg]; rfl
  have overwritten : g.overwritten = s.part.faults.overwritten := by rw [hg]; rfl
  refine ⟨fun hf => ?_, fun hf => ?_, ?_⟩
  · rw [ht, empty (first.trans hf)]
    exact ⟨rfl, later⟩
  · rw [ht, full (by rw [first]; exact hf)]
    exact ⟨first, congrArg (fun n => min 255 (n + 1)) later⟩
  · cases hf : s.part.faults.first with
    | none =>
      rw [ht, empty (first.trans hf)]
      exact overwritten
    | some x =>
      rw [ht, full (by rw [first, hf]; rfl)]
      exact overwritten

/-- R146, R149: an act that takes a recoverable fault in AUTOMATIC, PARKED or WAKING. -/
theorem State.act_fault {s : State} {f : Part → Part} {q : Part} {k : FaultKind} {loc : Location} {job : Option Nat}
    (hk : isFatal k = false) (e : f s.part = q.raiseFault k loc job)
    (hm : q.ctl.mode = .automatic ∨ q.ctl.mode = .parked ∨ q.ctl.mode = .waking) (reset : q.out.reset = false)
    (hcarriage : q.carriage = s.part.carriage) (hconv : ∀ x, q.conv.intoService x = s.part.conv.intoService x)
    (htickets : q.path.tickets = s.part.path.tickets) (hdrawers : q.drawers = s.part.drawers) (hstock : q.stock = s.part.stock)
    (hfaults : q.faults = s.part.faults.sameRecord q.faults) :
    EntersService s (s.act f) q.path.account ∧
      RecordsFault s (s.act f) { kind := k, location := loc, job := job, mode := q.ctl.mode } ∧
      (s.act f).part.ctl.doorCycle = if owesDoorCycle k then .owed else q.ctl.doorCycle := by
  have raised := q.raiseFault_recoverable k loc job hk hm
  obtain ⟨faults, ctl, out⟩ := q.recordFault_spec { kind := k, location := loc, job := job, mode := q.ctl.mode }
  obtain ⟨enters, hctl, hf⟩ := State.act_enterService (e.trans raised) (by rw [out]; exact reset) (by simpa using hcarriage)
    (by simpa using hconv) (by simpa using htickets) (by simpa using hdrawers) (by simpa using hstock)
  rw [faults] at hf
  refine ⟨by simpa using enters, RecordsFault.of_enter hk hfaults hf, ?_⟩
  rw [hctl, ctl]

end Sys2Proof.Machine
end

section
/-! Faults of the sort path, of the transport, of the stitch head and of the conveyor; door and key. -/

namespace Sys2Proof.Machine

/-! ## O38: faults that enter SERVICE -/

/-- `q` is `p` but for the clock, the sensor lines, the sort path's counts, a flag of the attention set and notices. -/
structure Part.Faulting (p q : Part) : Prop where
  ctl      : q.ctl = p.ctl
  jobs     : q.jobs = p.jobs
  runs     : q.runs = p.runs
  tickets  : q.path.tickets = p.path.tickets
  bins     : q.bins = p.bins
  stock    : q.stock = p.stock
  carriage : q.carriage = p.carriage
  conv     : ∀ x, q.conv.intoService x = p.conv.intoService x
  queue    : q.conv.queue = p.conv.queue
  drawers  : q.drawers = p.drawers
  faults   : q.faults = p.faults.sameRecord q.faults
  reset    : q.out.reset = false

/-- R147: the effect of a recoverable fault. -/
theorem FaultBlock.effect_recoverable (f : FaultBlock) {k : FaultKind} (hk : isFatal k = false) :
    f.effect k = if f.first = none then .first else .counted := by
  unfold FaultBlock.effect
  cases f.first <;> simp [hk]

/-- R54, R136, R146, R147: a recoverable fault in AUTOMATIC, PARKED or WAKING, of a part that is as before but for what came with
it. -/
theorem State.act_faulting {s : State} {f : Part → Part} {q : Part} {k : FaultKind} {loc : Location} {job : Option Nat}
    (hk : isFatal k = false) (e : f s.part = q.raiseFault k loc job)
    (hm : s.part.ctl.mode = .automatic ∨ s.part.ctl.mode = .parked ∨ s.part.ctl.mode = .waking) (h : s.part.Faulting q) :
    let entry : FaultEntry := { kind := k, location := loc, job := job, mode := s.part.ctl.mode }
    EntersService s (s.act f) q.path.account ∧ RecordsFault s (s.act f) entry ∧
      ((s.act f).part.ctl.doorCycle = if owesDoorCycle k then .owed else s.part.ctl.doorCycle) ∧
      (q.out.notices = [] → LosesPlainly s → LosesTickets s (s.act f) q.path.unticketed
        [.faultNote entry (if s.part.faults.first = none then .first else .counted),
          .modeNow .service (some s.part.ctl.mode) .fault (some k) s.part.ctl.doorOpen s.part.ctl.keyOn]) := by
  intro entry
  have mode : q.ctl.mode = s.part.ctl.mode := congrArg ModeCtl.mode h.ctl
  obtain ⟨enters, records, cycle⟩ := State.act_fault hk e (by rw [mode]; exact hm) h.reset h.carriage h.conv h.tickets h.drawers
    h.stock h.faults
  rw [mode] at records
  rw [h.ctl] at cycle
  refine ⟨enters, records, cycle, fun hout hplain => ?_⟩
  have raised := q.raiseFault_recoverable k loc job hk (by rw [mode]; exact hm)
  obtain ⟨-, ctl, out⟩ := q.recordFault_spec { kind := k, location := loc, job := job, mode := q.ctl.mode }
  have first : q.faults.first = s.part.faults.first := by rw [h.faults]; rfl
  have quiet : q.out = { reset := false, notices := [] } := by rw [← h.reset, ← hout]
  simp only [quiet, List.nil_append, FaultBlock.effect_recoverable _ hk, first] at out
  have loses := State.act_losesTickets hplain (e.trans raised) out (by simp) (by simpa using h.jobs) (by simpa using h.runs)
    (by simpa using h.bins) (by simpa using h.tickets) (by simp [h.carriage]) (by simpa using h.queue) (by rw [ctl]; exact mode)
  rw [ctl, h.ctl] at loses
  simpa using loses

/-- The part before a fault of the sort path: only its counts, the clock and the gate have moved. -/
theorem Part.faulting_of_path {p : Part} (now : Nat) (path : SortPath) (htickets : path.tickets = p.path.tickets) (h : p.Settled) :
    p.Faulting { p with now := now, path := path } :=
  ⟨rfl, rfl, rfl, htickets, rfl, rfl, rfl, fun _ => rfl, rfl, rfl, rfl, congrArg Out.reset h⟩

theorem takeTicket_of_none {f : Ticket → Bool} {ts : List Ticket} (h : ∀ t ∈ ts, f t = false) : takeTicket f ts = none := by
  have none : ts.find? f = none := List.find?_eq_none.mpr fun t ht => by simp [h t ht]
  simp only [takeTicket, none]

/-- R45: a sheet for a full purge tray is stopped. -/
theorem Part.settleDecision_of_full {p : Part} {d : Decision} {reason : PurgeReason} (htgt : d.target = .purge reason)
    (hfull : p.path.purgeFull = true) : p.settleDecision d = p.stopAtEntry .purgeFull (d.ref.map RunRef.job) := by
  simp only [Part.settleDecision, htgt, hfull, if_true]

/-- R40: a sheet at the open path. -/
theorem Part.onEntry_of_automatic {p : Part} (hm : p.ctl.mode = .automatic) (hrun : p.path.stopped = false) :
    p.onEntry = p.gateDecision := by
  rw [Part.onEntry, if_neg (Bool.eq_false_iff.mp hrun), if_pos hm]

theorem Part.quiet_of {p : Part} (hm : p.ctl.mode = .parked ∨ p.ctl.mode = .waking) : p.ctl.mode ≠ .automatic ∧ p.quiet = true := by
  rcases hm with h | h <;> simp [Part.quiet, h]

/-- R39: a sheet in PARKED or WAKING. -/
theorem Part.onEntry_of_quiet {p : Part} (hm : p.ctl.mode = .parked ∨ p.ctl.mode = .waking) (hrun : p.path.stopped = false) :
    p.onEntry = p.enterSheet.stopAtEntry .earlySheet none := by
  obtain ⟨hauto, hquiet⟩ := Part.quiet_of hm
  rw [Part.onEntry, if_neg (Bool.eq_false_iff.mp hrun), if_neg hauto, if_pos hquiet]

/-- R45: a sheet of the CURRENT run that goes to a full purge tray is stopped. -/
theorem Part.onEntry_of_purge {p : Part} {reason : PurgeReason} {ref : RunRef} {c : Nat} (hm : p.ctl.mode = .automatic)
    (hrun : p.path.stopped = false) (h5 : p.path.tickets.length < 5) (hfull : p.path.purgeFull = true)
    (hd : p.decide = { ref := some ref, target := .purge reason, caliper := c }) :
    p.onEntry = p.enterSheet.stopAtEntry .purgeFull (some ref.job) := by
  rw [Part.onEntry_of_open hm hrun h5, hd]
  exact Part.settleDecision_of_full rfl hfull

/-- R53: the oldest ticket's deadline. -/
theorem Part.onTicketDeadline_of {p : Part} {x : Ticket} {xs : List Ticket} (hm : p.ctl.mode = .automatic)
    (hrun : p.path.stopped = false) (hx : p.path.tickets = x :: xs) :
    p.onTicketDeadline = (p.reach x.deadline).pathFault .pathJam (targetLocation x.target) (x.ref.map RunRef.job) := by
  have opened : p.pathOpen = true := by simp [Part.pathOpen, hm, hrun]
  simp only [Part.onTicketDeadline, opened, if_true, hx]

/-- R48: a deposit that no ticket awaits. -/
theorem Part.onDeposit_of_unmatched {p : Part} {b : Nat} (hrun : p.path.stopped = false)
    (h : (p.ctl.mode = .automatic ∧ ∀ x ∈ p.path.tickets, x.target ≠ .bin b) ∨ p.ctl.mode = .parked ∨ p.ctl.mode = .waking) :
    p.onDeposit b = p.depositMismatch b := by
  rw [Part.onDeposit, if_neg (Bool.eq_false_iff.mp hrun)]
  rcases h with ⟨hm, hts⟩ | hm
  · rw [if_pos hm, takeTicket_of_none fun x hx => by simpa using hts x hx]
  · obtain ⟨hauto, hquiet⟩ := Part.quiet_of hm
    rw [if_neg hauto, if_pos hquiet]

/-- R51: an arrival in the purge tray that no ticket awaits. -/
theorem Part.onPurgeArrival_of_unmatched {p : Part} (hrun : p.path.stopped = false)
    (h : (p.ctl.mode = .automatic ∧ ∀ x ∈ p.path.tickets, ∃ c, x.target = .bin c) ∨ p.ctl.mode = .parked ∨ p.ctl.mode = .waking) :
    p.onPurgeArrival = p.countPurge.purgeMismatch := by
  refine (if_neg (Bool.eq_false_iff.mp hrun)).trans ?_
  rcases h with ⟨hm, hts⟩ | hm
  · refine (if_pos (by exact hm)).trans ?_
    rw [takeTicket_of_none fun x hx => ?_]
    obtain ⟨c, hc⟩ := hts x hx
    rw [hc]
    rfl
  · obtain ⟨hauto, hquiet⟩ := Part.quiet_of hm
    exact (if_neg (by exact hauto)).trans (if_pos (by exact hquiet))

/-- R40, R45: the stopped path, with the sheet that stopped it counted. -/
def SortPath.stoppedEntry (path : SortPath) : SortPath := { path with
    entryCount := path.entryCount + 1
    account := { path.account with entered := path.account.entered + 1, lost := path.account.lost + 1 }
    unticketed := path.unticketed + 1, stopped := true, gate := .released }

theorem Part.stopSheet_eq (p : Part) : p.stopSheet = { p with path := { p.path with
    unticketed := p.path.unticketed + 1, account := { p.path.account with lost := p.path.account.lost + 1 } } } := rfl

/-- R41, R45: a stray for a full purge tray is latched before its fault. -/
theorem Part.onEntry_of_stray {p : Part} (hm : p.ctl.mode = .automatic) (hrun : p.path.stopped = false)
    (h5 : p.path.tickets.length < 5) (hfull : p.path.purgeFull = true) (hcur : p.runs.current = none) (h : p.Settled) :
    ∃ q : Part, p.onEntry = q.raiseFault .purgeFull .none none ∧ q.path = p.path.stoppedEntry ∧ p.Faulting q ∧
      (hasCondition p.faults.attention .straySheet = true → q.out.notices = []) := by
  have decision : p.decide = { ref := none, target := .purge .stray, caliper := 0 } := by
    simp only [Part.decide, hcur]
  let x : Part := p.enterSheet.latch .straySheet
  obtain ⟨-, -, -, jobs, runs, path, bins, -, carriage, conv, -⟩ := Part.latch_frame p.enterSheet .straySheet
  have kept : p.enterSheet.Still x := p.enterSheet.still_latch .straySheet
  refine ⟨{ x with path := p.path.stoppedEntry }, ?_, rfl, ?_, fun hhas => ?_⟩
  · rw [Part.onEntry_of_open hm hrun h5, decision]
    refine (Part.settleDecision_of_full (p := x) rfl (path ▸ hfull)).trans ?_
    rw [Part.stopAtEntry, Part.stopSheet_eq, path]
    rfl
  · exact {
      ctl := kept.ctl
      jobs := jobs
      runs := runs
      tickets := rfl
      bins := bins
      stock := kept.stock
      carriage := carriage
      conv := fun c => congrArg (fun v : Conveyor => v.intoService c) conv
      queue := congrArg Conveyor.queue conv
      drawers := kept.drawers
      faults := kept.faults
      reset := kept.reset.trans (congrArg Out.reset h) }
  · have same : x = p.enterSheet := Part.latch_of_has (by exact hhas)
    rw [same]
    exact congrArg Out.notices h

/-- Settles O38: each event's fault, then what every fault leaves. -/
theorem pathFaultsEnterService : Obligations.PathFaultsEnterService := by
  intro s b hsettled hb p a stopped told enters stops
  have ok := binOk_iff.mpr hb
  have owes (k : FaultKind) : (if k ∈ [FaultKind.pathJam, .pathOverrun, .sensorMismatch, .purgeFull] then DoorCycle.owed
      else p.ctl.doorCycle) = if owesDoorCycle k then .owed else p.ctl.doorCycle := by
    cases k <;> rfl
  have tells {c : Instr} {f : Part → Part} {q : Part} {k : FaultKind} {loc : Location} {job : Option Nat} {plain : Prop}
      (hc : exec c s = .next (s.act f)) (hk : isFatal k = false) (e : f p = q.raiseFault k loc job)
      (hm : p.ctl.mode = .automatic ∨ p.ctl.mode = .parked ∨ p.ctl.mode = .waking) (h : p.Faulting q)
      (hplain : plain → q.out.notices = []) : told c k loc job q.path.account q.path.unticketed plain := by
    obtain ⟨h1, h2, h3, h4⟩ := State.act_faulting hk e hm h
    refine ⟨_, hc, h1, h2, ?_, fun hp hl => h4 (hplain hp) hl⟩
    rw [owes]
    exact h3
  have silent : p.out.notices = [] := congrArg Out.notices hsettled
  have moves {c : Instr} {f : Part → Part} {k : FaultKind} {loc : Location} {job : Option Nat} {plain : Prop} (now : Nat)
      (path : SortPath) (hc : exec c s = .next (s.act f)) (hk : isFatal k = false)
      (hm : p.ctl.mode = .automatic ∨ p.ctl.mode = .parked ∨ p.ctl.mode = .waking) (htickets : path.tickets = p.path.tickets)
      (e : f p = Part.raiseFault { p with now := now, path := path } k loc job) :
      told c k loc job path.account path.unticketed plain :=
    tells hc hk e hm (Part.faulting_of_path now path htickets hsettled) fun _ => silent
  let shut (path : SortPath) : SortPath := { path with stopped := true, gate := .released }
  have stop {c : Instr} {f : Part → Part} {k : FaultKind} {job : Option Nat} (hc : exec c s = .next (s.act f))
      (hk : isFatal k = false) (hm : p.ctl.mode = .automatic ∨ p.ctl.mode = .parked ∨ p.ctl.mode = .waking)
      (e : f p = p.enterSheet.stopAtEntry k job) : told c k .none job stopped (p.path.unticketed + 1) True :=
    moves p.now (p.path.stoppedEntry) hc hk hm rfl e
  refine ⟨fun hm hrun => ⟨fun x xs hx => ⟨fun c hc => ?_, fun r hr => ?_⟩, fun h5 => stop rfl rfl (.inl hm) ?_,
    fun h5 hfull => ⟨fun hcur => ?_, fun r hr hd => stop rfl rfl (.inl hm) ?_,
      fun r j e hr hj he hpurge => stop rfl rfl (.inl hm) ?_⟩, fun hts => ?_, fun hts => ?_⟩,
    fun hm hrun => ⟨stop rfl rfl (.inr hm) ?_, ?_, ?_⟩, fun hm hw => ?_⟩
  · refine moves (max p.now x.deadline) (shut p.path) rfl rfl (.inl hm) rfl ?_
    rw [show p.onTicketDeadline = _ from Part.onTicketDeadline_of hm hrun hx, hc]
    rfl
  · refine moves (max p.now x.deadline) (shut p.path) rfl rfl (.inl hm) rfl ?_
    rw [show p.onTicketDeadline = _ from Part.onTicketDeadline_of hm hrun hx, hr]
    rfl
  · exact (Part.onEntry_of_automatic hm hrun).trans (if_pos (by exact h5))
  · obtain ⟨q, entry, path, faulting, quiet⟩ := Part.onEntry_of_stray hm hrun h5 hfull hcur hsettled
    rw [show stops .purgeFull none _ = told .entry .purgeFull .none none q.path.account q.path.unticketed _ by rw [path]; rfl]
    exact tells (f := Part.onEntry) rfl rfl entry (.inl hm) faulting quiet
  · refine Part.onEntry_of_purge (reason := .drain) (ref := r.nextRef) (c := r.caliper.getD 0) hm hrun h5 hfull ?_
    simp only [Part.decide, show p.runs.current = some r from hr, hd, if_true]
    rfl
  · have decision := Part.decide_of_run hr hj he
    by_cases hd : r.state = .draining
    · exact Part.onEntry_of_purge (reason := .drain) (ref := r.nextRef) hm hrun h5 hfull (by rw [decision, if_pos hd])
    · rw [if_neg hd] at decision
      by_cases hdup : p.isDuplicate e.bin r.page = true
      · exact Part.onEntry_of_purge (reason := .duplicate) (ref := r.nextRef) hm hrun h5 hfull (by rw [decision, if_pos hdup])
      · have refuses : ¬ p.accepts e.bin (r.caliper.getD 0) = true := by
          rw [Part.accepts_iff]
          rintro ⟨hst, hsheets, hstack⟩
          rcases hpurge with h | h | h | h | h
          · exact hdup (Part.isDuplicate_iff.mpr (.inl h))
          · exact hdup (Part.isDuplicate_iff.mpr (.inr h))
          · exact h hst
          · exact Nat.not_lt.mpr hsheets h
          · exact Nat.not_lt.mpr hstack h
        exact Part.onEntry_of_purge (reason := .capacity) (ref := r.nextRef) hm hrun h5 hfull (by rw [decision, if_neg hdup, if_neg refuses])
  · refine moves p.now (shut p.path) (if_pos ok) rfl (.inl hm) rfl ?_
    exact Part.onDeposit_of_unmatched (by exact hrun) (.inl ⟨hm, hts⟩)
  · refine moves p.now (shut p.countPurge.path) rfl rfl (.inl hm) rfl ?_
    refine (Part.unlessHalted_of_ne (by rw [hm]; decide) _).trans ?_
    exact Part.onPurgeArrival_of_unmatched (by exact hrun) (.inl ⟨hm, hts⟩)
  · exact Part.onEntry_of_quiet hm hrun
  · exact moves p.now (shut p.path) (if_pos ok) rfl (.inr hm) rfl (Part.onDeposit_of_unmatched (by exact hrun) (.inr hm))
  · refine moves p.now (shut p.countPurge.path) rfl rfl (.inr hm) rfl ?_
    refine (Part.unlessHalted_of_ne (by rcases hm with h | h <;> (rw [h]; decide)) _).trans ?_
    exact (Part.onPurgeArrival_of_unmatched (by exact hrun) (.inr hm))
  · obtain ⟨t, ht⟩ := Option.isSome_iff_exists.mp hw
    refine moves (max p.now t) p.path rfl rfl (.inr (.inr hm)) rfl ?_
    simp only [Part.onWakingDeadline, hm, ht]
    rfl

end Sys2Proof.Machine
end

section
/-! Door and key (R136 to R138), and the loss of the one sheet that a VOID bin awaits. -/

namespace Sys2Proof.Machine

/-! ## O40: door and key -/

/-- R138: a resume is abandoned; a homing carriage and a trip under way stop. -/
theorem Part.abandonResume_eq (p : Part) :
    p.abandonResume = { p with
      ctl := { p.ctl with resumeFlag := false }
      carriage := if p.carriage.state = .homing then
          { p.carriage with state := .stopped, position := .unknown, target := none, deadline := none }
        else p.carriage
      conv := p.conv.intoService p.conv.queue } := by
  unfold Part.abandonResume
  dsimp only
  rw [Part.stopConveyor_eq]
  split <;> rfl

/-- R64: the last sheet that a VOID bin with sheets awaits is lost. -/
theorem Part.releaseReservation_last {p : Part} {b c : Nat} (hb : 1 ≤ b ∧ b ≤ 48) (hm : p.ctl.mode = .service)
    (hv : (p.bin b).set.void = true) (hin : (p.bin b).set.inboundSheets ≤ 1) (hpages : (p.bin b).set.pages ≠ []) :
    p.releaseReservation b c =
      { p.setBin b
          { state := .ejectWait
            set := { (p.bin b).set with
              inboundSheets := 0, inboundMicrons := (p.bin b).set.inboundMicrons - c, plan := some voidPlan } } with
        conv := { p.conv with queue := p.conv.queue ++ [{ bin := b, placeable := none }] } } := by
  have zero : (p.bin b).set.inboundSheets - 1 = 0 := by omega
  let left : Bin := { p.bin b with set := { (p.bin b).set with
    inboundSheets := 0, inboundMicrons := (p.bin b).set.inboundMicrons - c } }
  have written : (p.modSet b fun s => { s with inboundSheets := s.inboundSheets - 1, inboundMicrons := s.inboundMicrons - c }) =
      p.setBin b left := by
    simp only [Part.modSet, left, zero]
  have read : (p.setBin b left).bin b = left := Part.bin_setBin_self _ _ (binOk_iff.mpr hb)
  have mode : (p.setBin b left).ctl.mode = .service := by simpa using hm
  have finished := Part.finishVoid_of hb read (by rw [mode]; decide) (by rw [mode]; exact nofun)
  unfold Part.releaseReservation
  simp only [written, read]
  rw [if_pos (by simpa [left] using hv), if_neg (by simpa [left, SetRecord.sheets] using hpages), finished, Part.setBin_setBin]
  simp only [left, hv, Part.setBin_conv]

/-- R64, R69: the last sheet that an empty VOID bin awaits is lost, and nothing else ends with it. -/
theorem Part.releaseReservation_empty {p : Part} {b c : Nat} (hb : 1 ≤ b ∧ b ≤ 48)
    (hv : (p.bin b).set.void = true) (hin : (p.bin b).set.inboundSheets ≤ 1) (hpages : (p.bin b).set.pages = [])
    (hq : p.jobs.queue = [])
    (h : ∀ j ∈ p.jobs.jobs, (p.bin b).set.job = some j.number → j.state = .finishing ∨ j.state = .cancelling →
      ∃ e ∈ j.bins, e.released = false ∧ e.bin ≠ b) :
    p.releaseReservation b c =
      { p.setBin b Bin.free with jobs := { p.jobs with jobs := p.releasedJobs b Tallies.addEmpty } } := by
  have zero : (p.bin b).set.inboundSheets - 1 = 0 := by omega
  let left : Bin := { p.bin b with set := { (p.bin b).set with
    inboundSheets := 0, inboundMicrons := (p.bin b).set.inboundMicrons - c } }
  have written : (p.modSet b fun s => { s with inboundSheets := s.inboundSheets - 1, inboundMicrons := s.inboundMicrons - c }) =
      p.setBin b left := by
    simp only [Part.modSet, left, zero]
  have read : (p.setBin b left).bin b = left := Part.bin_setBin_self _ _ (binOk_iff.mpr hb)
  have freed : (p.setBin b left).freeEmpty b = _ := Part.freeBin_eq (p := p.setBin b left) b Tallies.addEmpty (by simpa using hq) ?_
  · unfold Part.releaseReservation
    simp only [written, read]
    rw [if_pos (by simpa [left] using hv), if_pos (by simpa [left, SetRecord.sheets] using hpages), freed, Part.setBin_setBin]
    simp only [Part.releasedJobs, read, left, Part.setBin_jobs]
  · intro j hj hjob hst
    rw [read] at hjob
    exact .inl (h j (by simpa using hj) hjob (by simpa using hst))

/-- R54: the loss of the only ticket, no run settling: its reservation is given back on the part without it. -/
theorem Part.loseTickets_one {p : Part} {x : Ticket} {b : Nat} (before : Mode) (ht : p.path.tickets = [x]) (hx : x.target = .bin b)
    (hfin : p.runs.finishing = []) :
    ∃ (path : SortPath) (out : Out),
      (p.loseTickets before).bins = (Part.releaseReservation { p with path := path, out := out } b x.caliper).bins ∧
      (p.loseTickets before).conv = (Part.releaseReservation { p with path := path, out := out } b x.caliper).conv ∧
      (p.loseTickets before).jobs = (Part.releaseReservation { p with path := path, out := out } b x.caliper).jobs := by
  refine ⟨{ p.path with tickets := [], account := p.path.account.flightToLost 1 },
    { p.out with notices := p.out.notices ++ [pathLossOf [x] p.path.unticketed before] }, ?_⟩
  let q : Part := { p with
    path := { p.path with tickets := [], account := p.path.account.flightToLost 1 }
    out := { p.out with notices := p.out.notices ++ [pathLossOf [x] p.path.unticketed before] } }
  have landed : ((q.releaseReservation b x.caliper).reportLost x).runs.finishing = [] := by
    have runs : (q.releaseReservation b x.caliper).runs = p.runs := by simp [q]
    unfold Part.reportLost
    split
    · simp [Part.modRun, show q.runs.finishing = [] from hfin]
    · rw [runs, hfin]
  have loses : p.loseTickets before =
      let r := (q.releaseReservation b x.caliper).reportLost x
      { r with path := { r.path with unticketed := 0, stopped := false, gate := .released } } := by
    have settled : ((q.releaseReservation b x.caliper).reportLost x).completeSettled = _ :=
      Part.completeSettled_of_named (by rw [landed]; exact nofun)
    unfold Part.loseTickets
    simp only [ht, List.foldl_cons, List.foldl_nil, Part.loseReservation, hx]
    rw [if_pos (.inl (by simp))]
    change (let r := ((q.releaseReservation b x.caliper).reportLost x).completeSettled
      { r with path := { r.path with unticketed := 0, stopped := false, gate := .released } }) = _
    rw [settled]
  rw [loses]
  refine ⟨?_, ?_, ?_⟩ <;> simp [q]

/-- R54, R136: an entry to SERVICE with one ticket, no run settling. -/
theorem Part.enterService_one {p : Part} {x : Ticket} {b : Nat} (cause : ModeCause) (ht : p.path.tickets = [x])
    (hx : x.target = .bin b) (hfin : p.runs.finishing = []) :
    ∃ q : Part, q.ctl.mode = .service ∧ q.bins = p.bins ∧ q.jobs = p.jobs ∧ q.conv = p.conv ∧
      (p.enterService cause none).bins = (q.releaseReservation b x.caliper).bins ∧
      (p.enterService cause none).conv.queue = (q.releaseReservation b x.caliper).conv.queue ∧
      (p.enterService cause none).jobs = (q.releaseReservation b x.caliper).jobs := by
  let q : Part := Part.changeMode
    { p with ctl := { p.ctl with parkPending := false, idleTimer := none, wakingDeadline := none } } .service cause none
  have enters : p.enterService cause none = ((q.loseTickets p.ctl.mode).carriageService).stopConveyor := rfl
  obtain ⟨path, out, bins, conv, jobs⟩ := Part.loseTickets_one (p := q) p.ctl.mode ht hx hfin
  rw [enters, Part.stopConveyor_eq, Part.carriageService_eq]
  refine ⟨{ q with path := path, out := out }, rfl, rfl, rfl, rfl, bins, ?_, jobs⟩
  rw [← conv]
  dsimp only
  unfold Conveyor.intoService
  split <;> rfl

/-- R54, R64, R69: what an act that enters SERVICE with one ticket in flight, for a VOID bin, leaves of that bin. -/
theorem State.act_loses_one {s : State} {f : Part → Part} {p : Part} {x : Ticket} {b : Nat} {cause : ModeCause}
    (e : f s.part = p.enterService cause none) (reset : p.out.reset = false) (ht : p.path.tickets = [x]) (hx : x.target = .bin b)
    (hb : 1 ≤ b ∧ b ≤ 48) (hv : (p.bin b).set.void = true) (hin : (p.bin b).set.inboundSheets ≤ 1) (hfin : p.runs.finishing = []) :
    let set := (p.bin b).set
    let t := (s.act f).part
    (set.pages ≠ [] →
      t.bin b =
        { state := .ejectWait
          set := { set with inboundSheets := 0, inboundMicrons := set.inboundMicrons - x.caliper, plan := some voidPlan } } ∧
      t.conv.queue = p.conv.queue ++ [{ bin := b, placeable := none }] ∧ t.jobs = p.jobs) ∧
    (set.pages = [] → p.jobs.queue = [] →
      (∀ j ∈ p.jobs.jobs, set.job = some j.number → j.state = .finishing ∨ j.state = .cancelling →
        ∃ e ∈ j.bins, e.released = false ∧ e.bin ≠ b) →
      t.bin b = Bin.free ∧ t.conv.queue = p.conv.queue ∧
        t.jobs = { p.jobs with jobs := p.releasedJobs b Tallies.addEmpty }) := by
  intro set t
  obtain ⟨q, mode, bins, jobs, conv, bins', queue', jobs'⟩ := Part.enterService_one cause ht hx hfin
  obtain ⟨-, -, -, -, -, -, -, -, -, hreset⟩ := p.enterService_spec cause none
  obtain ⟨-, -, -, part⟩ := State.act_part (s := s) (f := f) (by rw [e]; exact hreset.trans reset)
  have tbins : t.bins = (q.releaseReservation b x.caliper).bins := (congrArg Part.bins part).trans ((congrArg Part.bins e).trans bins')
  have tqueue : t.conv.queue = (q.releaseReservation b x.caliper).conv.queue :=
    (congrArg (fun x : Part => x.conv.queue) part).trans ((congrArg (fun x : Part => x.conv.queue) e).trans queue')
  have tjobs : t.jobs = (q.releaseReservation b x.caliper).jobs := (congrArg Part.jobs part).trans ((congrArg Part.jobs e).trans jobs')
  have read : q.bin b = p.bin b := Part.bin_congr bins b
  have ok := binOk_iff.mpr hb
  rw [Part.bin_congr tbins b, tqueue, tjobs]
  refine ⟨fun hpages => ?_, fun hpages hq hjobs => ?_⟩
  · rw [Part.releaseReservation_last hb mode (by rwa [read]) (by rwa [read]) (by rwa [read]), read]
    exact ⟨Part.bin_setBin_self _ _ ok, by rw [conv], by simpa using jobs⟩
  · rw [Part.releaseReservation_empty hb (by rwa [read]) (by rwa [read]) (by rwa [read]) (by rwa [jobs]) (by rwa [read, jobs])]
    refine ⟨Part.bin_setBin_self _ _ ok, by simp [conv], ?_⟩
    rw [Part.releasedJobs, read, jobs]
    rfl

/-- R137: the part with its door opened. -/
def Part.opened (p : Part) : Part :=
  { p with lines := { p.lines with doorOpen := true }, ctl := { p.ctl with doorOpen := true, doorCycle := p.ctl.doorCycle.opening } }

/-- R137: the part with its key turned on. -/
def Part.turned (p : Part) : Part :=
  { p with lines := { p.lines with keyOn := true }, ctl := { p.ctl with keyOn := true } }

theorem Part.intrude_of_serving {p : Part} (c : ModeCause)
    (hm : p.ctl.mode = .automatic ∨ p.ctl.mode = .parked ∨ p.ctl.mode = .waking) : p.intrude c = p.enterService c none := by
  unfold Part.intrude
  rcases hm with h | h | h <;> simp only [h]

/-- Settles O40: the entry to SERVICE with what its loss of the tickets does to a VOID bin, the abandoned resume, and the levels
noted in STARTING. -/
theorem doorAndKeyByMode : Obligations.DoorAndKeyByMode := by
  intro s hsettled p cycle door key abandoned
  have opening : p.ctl.doorCycle.opening = cycle := by
    simp only [cycle]
    cases p.ctl.doorCycle <;> rfl
  have silent : p.out = { reset := false, notices := [] } := hsettled
  let doorAct (p : Part) : Part := Part.unlessHalted { p with lines := { p.lines with doorOpen := true } } Part.onDoorOpened
  let keyAct (p : Part) : Part := Part.unlessHalted { p with lines := { p.lines with keyOn := true } } Part.onKeyOn
  have opened (h : p.ctl.mode ≠ .halted) : doorAct p = p.opened.intrude .door :=
    Part.unlessHalted_of_ne (by exact h) _
  have turned (h : p.ctl.mode ≠ .halted) : keyAct p = p.turned.intrude .key :=
    Part.unlessHalted_of_ne (by exact h) _
  refine ⟨fun hm => ?_, fun hm => ?_, fun hm => ?_⟩
  · have alive : p.ctl.mode ≠ .halted := by rcases hm with h | h | h <;> (rw [h]; decide)
    have byDoor : doorAct p = p.opened.enterService .door none := (opened alive).trans (Part.intrude_of_serving .door (by exact hm))
    have byKey : keyAct p = p.turned.enterService .key none := (turned alive).trans (Part.intrude_of_serving .key (by exact hm))
    refine ⟨⟨_, rfl, ?_⟩, ⟨_, rfl, ?_⟩⟩
    · obtain ⟨h1, h2, -⟩ := State.act_enterService (f := doorAct) (q := p.opened) byDoor (congrArg Out.reset silent) rfl (fun _ => rfl) rfl
        rfl rfl
      refine ⟨h1, ⟨(congrArg ModeCtl.doorOpen h2).trans rfl, (congrArg ModeCtl.keyOn h2).trans rfl, (congrArg ModeCtl.doorCycle h2).trans opening⟩,
        fun hplain => State.act_losesTickets (f := doorAct) (q := p.opened) (ns := []) hplain byDoor silent (by simp) rfl rfl rfl rfl rfl
          rfl rfl, ?_⟩
      intro x b ht hx hb hv hin hfin set
      exact State.act_loses_one (f := doorAct) (p := p.opened) byDoor (congrArg Out.reset silent) ht hx hb hv hin hfin
    · obtain ⟨h1, h2, -⟩ := State.act_enterService (f := keyAct) (q := p.turned) byKey (congrArg Out.reset silent) rfl (fun _ => rfl) rfl
        rfl rfl
      exact ⟨h1, ⟨(congrArg ModeCtl.keyOn h2).trans rfl, (congrArg ModeCtl.doorOpen h2).trans rfl, (congrArg ModeCtl.doorCycle h2).trans rfl⟩,
        fun hplain => State.act_losesTickets (f := keyAct) (q := p.turned) (ns := []) hplain byKey silent (by simp) rfl rfl rfl rfl rfl
          rfl rfl⟩
  · have alive : p.ctl.mode ≠ .halted := by rw [hm]; decide
    have abandons (q : Part) (h : q.ctl.mode = .service) (c : ModeCause) : q.intrude c = q.abandonResume := by
      simp only [Part.intrude, h]
    have byDoor := (opened alive).trans (abandons p.opened hm .door)
    have byKey := (turned alive).trans (abandons p.turned hm .key)
    rw [Part.abandonResume_eq] at byDoor byKey
    refine ⟨⟨s.act doorAct, rfl, ?_⟩, ⟨s.act keyAct, rfl, ?_⟩⟩
    · rw [State.act_of byDoor (by exact hsettled)]
      refine ⟨⟨hm, rfl, rfl, fun h => if_pos h, fun h => if_neg h, fun h => Conveyor.intoService_of_carrying h _,
        fun h => Conveyor.intoService_of_slip h _, fun h => Conveyor.intoService_of_rest h _⟩, rfl, rfl, opening⟩
    · rw [State.act_of byKey (by exact hsettled)]
      refine ⟨⟨hm, rfl, rfl, fun h => if_pos h, fun h => if_neg h, fun h => Conveyor.intoService_of_carrying h _,
        fun h => Conveyor.intoService_of_slip h _, fun h => Conveyor.intoService_of_rest h _⟩, rfl, rfl, rfl⟩
  · have alive : p.ctl.mode ≠ .halted := by rw [hm]; decide
    have notes (q : Part) (h : q.ctl.mode = .starting) (c : ModeCause) : q.intrude c = q := by
      simp only [Part.intrude, h]
    have byDoor := (opened alive).trans (notes p.opened hm .door)
    have byKey := (turned alive).trans (notes p.turned hm .key)
    refine ⟨congrArg Host.Outcome.next (?_ : s.act doorAct = _), congrArg Host.Outcome.next (?_ : s.act keyAct = _)⟩
    · rw [State.act_of byDoor (by exact hsettled), Part.opened, opening]
    · rw [State.act_of byKey (by exact hsettled), Part.turned]

end Sys2Proof.Machine
end

section
/-! The jam of a stitch cycle (R95) and the faults of the conveyor (R107, R108), with the end of a trip (R107). -/

namespace Sys2Proof.Machine

/-! ## Faults in SERVICE -/

theorem Part.recordFault_eq (p : Part) (e : FaultEntry) :
    p.recordFault e = { p with
      ctl := { p.ctl with doorCycle := if owesDoorCycle e.kind then .owed else p.ctl.doorCycle }
      faults := p.faults.enter e
      out := { p.out with notices := p.out.notices ++ [.faultNote e (p.faults.effect e.kind)] } } := by
  unfold Part.recordFault
  dsimp only
  split <;> rfl

/-- R147: a recoverable fault in the record. -/
theorem FaultBlock.enter_of_recoverable (f : FaultBlock) {e : FaultEntry} (h : isFatal e.kind = false) :
    f.enter e = if f.first = none then { f with first := some e } else { f with later := min 255 (f.later + 1) } := by
  obtain ⟨empty, full⟩ := f.enter_recoverable e h
  split
  · exact empty ‹_›
  · exact full (Option.isSome_iff_ne_none.mpr ‹_›)

/-- R146: an act that takes a recoverable fault in SERVICE. -/
theorem State.act_fault_service {s : State} {f : Part → Part} {q : Part} {k : FaultKind} {loc : Location} {job : Option Nat}
    (hk : isFatal k = false) (e : f s.part = q.raiseFault k loc job) (hm : q.ctl.mode = .service) (hq : q.Settled) (h : Busy 1 s) :
    let entry : FaultEntry := { kind := k, location := loc, job := job, mode := .service }
    s.act f = ({ s with part := { q with
        ctl := { q.ctl with resumeFlag := false, doorCycle := if owesDoorCycle k then .owed else q.ctl.doorCycle }
        faults := if q.faults.first = none then { q.faults with first := some entry }
          else { q.faults with later := min 255 (q.faults.later + 1) } } } : State).queued
      [.faultNote entry (if q.faults.first = none then .first else .counted)] := by
  intro entry
  have silent : q.out = { reset := false, notices := [] } := hq
  refine State.act_raises ?_ (by exact hq) h.sending h.room
  rw [e, q.raiseFault_service k loc job hk hm, hm, Part.recordFault_eq, FaultBlock.enter_of_recoverable _ hk,
    FaultBlock.effect_recoverable _ hk, silent]
  rfl

/-! ## O44: the stitch cycle deadline -/

theorem Part.bins_ext {p q : Part} (h : ∀ b, p.bin b = q.bin b) : p.bins = q.bins := by
  refine Vector.ext fun i hi => ?_
  have same := h (i + 1)
  unfold Part.bin at same
  simpa [Nat.succ_le_iff.mpr hi] using same

/-- R54, R136: an entry to SERVICE with nothing on the sort path and nothing settling, carriage and conveyor at rest. -/
theorem Part.enterService_of_rest {p : Part} (cause : ModeCause) (fault : Option FaultKind) (ht : p.path.tickets = [])
    (hu : p.path.unticketed = 0) (hfin : p.runs.finishing = []) (hc : p.carriage.state ≠ .travelling)
    (hv : p.conv.state = .idle ∨ p.conv.state = .stopped) :
    p.enterService cause fault = { p with
      ctl := { p.ctl with mode := .service, parkPending := false, idleTimer := none, wakingDeadline := none }
      path := { p.path with stopped := false, gate := .released }
      out := { p.out with
        notices := p.out.notices ++ [.modeNow .service (some p.ctl.mode) cause fault p.ctl.doorOpen p.ctl.keyOn] } } := by
  obtain ⟨bins, hread, enters⟩ := Part.enterService_plain (p := p) cause fault (by rw [ht]; exact nofun) (by rw [hfin]; exact nofun)
  have sameBins : bins = p.bins := Part.bins_ext (p := { p with bins := bins }) fun b => by
    rw [hread, ht, List.filter_nil, Bin.losing_nil]
  have sameRuns : ({ p.runs with current := p.runs.current.map fun r => r.losing p.path.tickets, finishing := [] } : RunCtl) = p.runs := by
    have told : (p.runs.current.map fun r => r.losing []) = p.runs.current := by
      cases p.runs.current <;> simp [Run.losing_nil]
    rw [ht, told, ← hfin]
  have sameCarriage : p.carriage.intoService p.carriage.queue = p.carriage := if_neg hc
  have sameAccount : p.path.account.flightToLost p.path.tickets.length = p.path.account := by simp [ht, Account.flightToLost]
  have nothing : p.lossNotices p.ctl.mode = [] := by simp [Part.lossNotices, ht, hu, hfin]
  rw [enters, sameBins, sameRuns, sameCarriage, sameAccount, nothing, Conveyor.intoService_of_rest hv, List.append_nil, ← ht, ← hu]

/-- Settles O44: the jammed set, then the fault by mode. -/
theorem aStitchJamStopsTheCarriage : Obligations.AStitchJamStopsTheCarriage := by
  intro s h d hbusy hc hh hd hb hfirst p r e jams
  -- the part with the set jammed
  let q : Part := { p.setBin h.bin { r with set := { r.set with made := r.set.made - 1 } } with
    now := max p.now d
    carriage := { p.carriage with
      state := .stopped, position := .bin h.bin, target := none, deadline := none
      held := some { bin := h.bin, cond := .jammed } } }
  have settled : q.Settled := by
    have : p.out = { reset := false, notices := [] } := hbusy.settled
    simpa [q, Part.Settled] using this
  have mode : q.ctl = p.ctl := by simp [q]
  have jammed (hm : p.ctl.mode ≠ .halted) : p.unlessHalted Part.onStitchCycleDeadline = q.raiseFault .stitchJam (.bin h.bin) r.set.job := by
    have job : q.binJob h.bin = r.set.job := by
      have read : q.bin h.bin = { r with set := { r.set with made := r.set.made - 1 } } := Part.bin_setBin_self _ _ (binOk_iff.mpr hb)
      rw [Part.binJob, read]
    have expires : p.onStitchCycleDeadline = (p.reach d).stitchJam h.bin := by
      simp only [Part.onStitchCycleDeadline, show p.carriage.state = _ from hc, show p.carriage.held = _ from hh,
        show p.carriage.deadline = _ from hd]
    have jam : (p.reach d).stitchJam h.bin = q.raiseFault .stitchJam (.bin h.bin) (q.binJob h.bin) := by
      simp only [Part.stitchJam, Part.modSet, q, Part.setBin_of hb]
      rfl
    rw [Part.unlessHalted_of_ne hm, expires, jam, job]
  have first : q.faults.first = none := by simpa [q] using hfirst
  refine ⟨fun hm => ?_, fun hm ht hu hfin hv => ?_⟩
  · have act := State.act_fault_service (f := fun p => p.unlessHalted Part.onStitchCycleDeadline) (q := q) rfl
      (jammed (by rw [hm]; decide)) (by rw [mode]; exact hm) settled
      ⟨hbusy.settled, hbusy.sending, by have := hbusy.room; omega⟩
    dsimp only at act
    rw [first, if_pos rfl, if_pos rfl, ← hm] at act
    refine congrArg Host.Outcome.next (act.trans ?_)
    simp only [q, jams, Part.setBin_of hb]
    rfl
  · have act := State.act_raises (f := fun p => p.unlessHalted Part.onStitchCycleDeadline) (s := s)
      (q := (jams { p.ctl with mode := .service, parkPending := false, idleTimer := none, wakingDeadline := none }
        { p.path with stopped := false, gate := .released }).part)
      (ns := [.faultNote e .first, .modeNow .service (some .automatic) .fault (some .stitchJam) p.ctl.doorOpen p.ctl.keyOn])
      ?_ (by exact settled) hbusy.sending hbusy.room
    · exact congrArg Host.Outcome.next act
    refine (jammed (by rw [hm]; decide)).trans ?_
    rw [Part.raiseFault_recoverable _ _ _ _ rfl (by rw [mode]; exact .inl hm), Part.recordFault_eq,
      FaultBlock.enter_of_recoverable _ rfl, FaultBlock.effect_recoverable _ rfl, first, if_pos rfl, if_pos rfl,
      Part.enterService_of_rest _ _ (by simpa [q] using ht) (by simpa [q] using hu) (by simpa [q] using hfin) (by simp [q])
        (by simpa [q] using hv)]
    have silent : p.out = { reset := false, notices := [] } := hbusy.settled
    simp only [q, jams, Part.setBin_of hb, silent, hm]
    simp [e, hm, owesDoorCycle]

end Sys2Proof.Machine
end

section
/-! The end of a trip (R107 steps 4 to 6), the faults of the conveyor (R107, R108, R114), and the arrivals at drawer and tray. -/

namespace Sys2Proof.Machine

/-! ## The end of a trip -/

/-- R107: the part with its trip ended. -/
def Part.unloaded (p : Part) : Part := { p with conv := { p.conv with state := .idle, trip := none } }

/-- R17, R18: the job goes on after the set of its trip. -/
def Part.GoesOn (p : Part) (j : Job) : Prop :=
  (∃ e ∈ j.bins, e.released = false) ∨ j.state ∈ [JobState.waiting, .active, .holding, .held, .closing] ∨
    (j.state = .cancelling ∧ p.hasStartedRun j.number = true)

/-- R17, R18: the job ends with the set of its trip. -/
def Part.EndsWith (p : Part) (j : Job) (o : JobOutcome) : Prop :=
  (∀ e ∈ j.bins, e.released = true) ∧
    ((j.state = .finishing ∧ o = .completed) ∨ (j.state = .cancelling ∧ p.hasStartedRun j.number = false ∧ o = .cancelled))

theorem Part.hasStartedRun_iff {p : Part} {n : Nat} :
    p.hasStartedRun n = true ↔ ∃ r ∈ p.runs.current.toList ++ p.runs.finishing, r.job = n := by
  simp only [Part.hasStartedRun, List.any_eq_true, beq_iff_eq]

theorem Part.endOf_of_goesOn {p : Part} {j : Job} (h : p.GoesOn j) : p.endOf j = none := by
  refine Part.endOf_none fun hs => ?_
  rcases h with h | h | h
  · exact .inl h
  · simp only [List.mem_cons, List.not_mem_nil, or_false] at h hs
    rcases hs with hs | hs <;> simp [hs] at h
  · exact .inr (.inr h)

theorem Part.endOf_of_endsWith {p : Part} {j : Job} {o : JobOutcome} (h : p.EndsWith j o) (ht : p.conv.trip = none) :
    p.endOf j = some o := by
  obtain ⟨released, h⟩ := h
  have all : j.allReleased = true := by simpa [Job.allReleased] using released
  have idle : p.onConveyor j.number = false := by simp [Part.onConveyor, ht]
  rcases h with ⟨hs, rfl⟩ | ⟨hs, hr, rfl⟩ <;> simp [Part.endOf, *]

/-- R107: where no delivery is waiting the choice check after a trip chooses nothing. -/
theorem Part.choiceCheck_of_waiting {p : Part} (hq : p.ctl.mode = .automatic → p.conv.queue = []) : p.choiceCheck = p := by
  by_cases hm : p.ctl.mode = .automatic
  · exact Part.choiceCheck_of_empty (hq hm)
  · exact Part.choiceCheck_of_not fun h => absurd h hm

/-- R107: the trip of no job ends. -/
theorem Part.endTrip_of_none {p : Part} {t : Trip} (hj : t.job = none) (hq : p.ctl.mode = .automatic → p.conv.queue = []) :
    p.endTrip t = p.unloaded := by
  simp only [Part.endTrip, hj]
  exact Part.choiceCheck_of_waiting (by exact hq)

/-- R107: the trip ends, its job goes on. -/
theorem Part.endTrip_of_goesOn {p : Part} {t : Trip} {j : Job} (hj : t.job = some j.number) (hn : p.job? j.number = some j)
    (hq : p.ctl.mode = .automatic → p.conv.queue = []) (h : p.GoesOn j) : p.endTrip t = p.unloaded := by
  have stays : p.unloaded.testEnd j.number = p.unloaded := Part.testEnd_of_none fun i hi => by
    obtain rfl : j = i := Option.some.inj (hn.symm.trans hi)
    exact Part.endOf_of_goesOn (by exact h)
  simp only [Part.endTrip, hj]
  refine (congrArg Part.choiceCheck stays).trans (Part.choiceCheck_of_waiting (by exact hq))

/-- R107, R17, R18: the trip ends, and its job with it. -/
theorem Part.endTrip_of_endsWith {p : Part} {t : Trip} {j : Job} {o : JobOutcome} (hj : t.job = some j.number)
    (hn : p.job? j.number = some j) (hq : p.ctl.mode = .automatic → p.conv.queue = []) (h : p.EndsWith j o) :
    p.endTrip t = { p.unloaded with
      jobs := { p.jobs with jobs := p.jobs.jobs.filter fun i => i.number ≠ j.number }
      out := { p.out with notices := p.out.notices ++ [.jobDone j.number o j.copies j.tallies] } } := by
  have ends : p.unloaded.testEnd j.number = (p.unloaded.raise (.jobDone j.number o j.copies j.tallies)).dropJob j.number := by
    have known : p.unloaded.job? j.number = some j := hn
    have ended : p.unloaded.endOf j = some o := Part.endOf_of_endsWith (by exact h) rfl
    simp only [Part.testEnd, known, ended]
  simp only [Part.endTrip, hj]
  exact (congrArg Part.choiceCheck ends).trans (Part.choiceCheck_of_waiting (by exact hq))

/-- R140: with a CURRENT run, or outside AUTOMATIC, the idle condition does not hold. -/
theorem Part.examineIdle_of_running {p : Part} (h : p.ctl.mode = .automatic → p.runs.current.isSome = true) :
    p.examineIdle = p.unidled :=
  Part.examineIdle_of_not fun hm hi => by simpa [hi.current] using h hm

/-- R107, R17, R18: the job records and the notices after the end of a trip. -/
inductive Part.TripEnds (p : Part) (t : Trip) : List Job → List Notice → Prop
  | noJob (hj : t.job = none) : TripEnds p t p.jobs.jobs []
  | goesOn {j : Job} (hj : t.job = some j.number) (hn : p.job? j.number = some j) (h : p.GoesOn j) : TripEnds p t p.jobs.jobs []
  | ends {j : Job} {o : JobOutcome} (hj : t.job = some j.number) (hn : p.job? j.number = some j) (h : p.EndsWith j o) :
    TripEnds p t (p.jobs.jobs.filter fun i => i.number ≠ j.number) [.jobDone j.number o j.copies j.tallies]

/-- R107: a trip ends where no delivery is waiting, and the idle condition does not hold. -/
theorem Part.endTrip_examined {p : Part} {t : Trip} {jobs : List Job} {ns : List Notice} (h : p.TripEnds t jobs ns)
    (hq : p.ctl.mode = .automatic → p.conv.queue = []) (hrun : p.ctl.mode = .automatic → p.runs.current.isSome = true) :
    (p.endTrip t).examineIdle = { p.unidled with
      jobs := { p.jobs with jobs := jobs }
      conv := { p.conv with state := .idle, trip := none }
      out := { p.out with notices := p.out.notices ++ ns } } := by
  have ended : p.endTrip t = { p.unloaded with
      jobs := { p.jobs with jobs := jobs }, out := { p.out with notices := p.out.notices ++ ns } } := by
    cases h with
    | noJob hj => rw [Part.endTrip_of_none hj hq, List.append_nil]; rfl
    | goesOn hj hn h => rw [Part.endTrip_of_goesOn hj hn hq h, List.append_nil]; rfl
    | ends hj hn h => rw [Part.endTrip_of_endsWith hj hn hq h]
  rw [ended, Part.examineIdle_of_running (by exact hrun)]
  by_cases hm : p.ctl.mode = .automatic <;> simp [Part.unidled, Part.unloaded, hm]

/-! ## O50: the faults of the conveyor -/

/-- R146: after a recoverable fault the mode is SERVICE. -/
theorem Part.examineIdle_raiseFault {p : Part} {k : FaultKind} (loc : Location) (job : Option Nat) (hk : isFatal k = false)
    (h1 : p.ctl.mode ≠ .halted) (h2 : p.ctl.mode ≠ .starting) :
    (p.raiseFault k loc job).examineIdle = p.raiseFault k loc job := by
  refine Part.examineIdle_of_ne ?_
  by_cases hm : p.ctl.mode = .service
  · rw [p.raiseFault_service k loc job hk hm, Part.recordFault_eq]
    exact fun h => absurd (hm.symm.trans h) (by decide)
  · have serving : p.ctl.mode = .automatic ∨ p.ctl.mode = .parked ∨ p.ctl.mode = .waking := by
      cases h : p.ctl.mode <;> simp_all
    obtain ⟨-, -, ctl, -⟩ := Part.enterService_spec
      (p.recordFault { kind := k, location := loc, job := job, mode := p.ctl.mode }) .fault (some k)
    rw [p.raiseFault_recoverable k loc job hk serving, ctl]
    exact nofun

theorem Conveyor.intoService_intoService (c : Conveyor) (x y : List EjectEntry) :
    (c.intoService x).intoService y = c.intoService y := by
  rcases c with ⟨queue, state, trip, feeder, slipLow, slipOut, tray⟩
  cases state <;> cases trip <;> rfl

/-- R107: an ARRIVAL with a set on the conveyor. -/
theorem Part.arrive_of_carrying {p : Part} {t : Trip} (place : Place) (h1 : p.ctl.mode ≠ .halted) (h2 : p.ctl.mode ≠ .starting)
    (hc : p.conv.state = .carrying) (ht : p.conv.trip = some t) :
    p.arrive place =
      if place = t.place then if t.emptied then p.deliver t else p.arrivalMismatch (.bin t.bin) t.job
      else p.arrivalMismatch (placeLocation place) t.job := by
  unfold Part.arrive
  split
  · exact absurd ‹_› h1
  · exact absurd ‹_› h2
  all_goals simp only [hc, ht]

/-- R107: an ARRIVAL in a slip step, or at an idle conveyor outside SERVICE. -/
theorem Part.arrive_of_unmatched {p : Part} (place : Place) (h1 : p.ctl.mode ≠ .halted) (h2 : p.ctl.mode ≠ .starting)
    (h : p.conv.state = .slip ∨ (p.conv.state = .idle ∧ p.ctl.mode ≠ .service)) :
    p.arrive place = p.arrivalMismatch (placeLocation place) none := by
  unfold Part.arrive
  split
  · exact absurd ‹_› h1
  · exact absurd ‹_› h2
  all_goals
    rcases h with h | ⟨h, hs⟩
    · simp only [h]
    · simp only [h, if_neg hs]

/-- R114: the carry deadline of a trip. -/
theorem Part.onCarryDeadline_of {p : Part} {t : Trip} {d : Nat} (hc : p.conv.state = .carrying) (ht : p.conv.trip = some t)
    (hd : t.deadline = some d) : p.onCarryDeadline = ((p.reach d).carryExpired t).examineIdle := by
  simp only [Part.onCarryDeadline, hc, ht, hd]

/-- The clearing of a trip's awaited drawer. -/
theorem DrawerMap.setAwaited_spec (m : DrawerMap) (place : Place) (b : Bool) :
    (∀ x, place = .drawer x → 1 ≤ x ∧ x ≤ 20 → (m.setAwaited place b).drawer x = { m.drawer x with awaited := b }) ∧
    (∀ x, place ≠ .drawer x → (m.setAwaited place b).drawer x = m.drawer x) ∧
    (m.setAwaited place b).nv = m.nv ∧ (m.setAwaited place b).markers = m.markers ∧ (m.setAwaited place b).tree = m.tree := by
  cases place with
  | overflow => exact ⟨nofun, fun x _ => rfl, rfl, rfl, rfl⟩
  | drawer d =>
    refine ⟨fun x hx hr => ?_, fun x hx => ?_, DrawerMap.setDrawer_nv .., DrawerMap.setDrawer_markers .., DrawerMap.setDrawer_tree ..⟩
    · obtain rfl : d = x := Place.drawer.inj hx
      exact (DrawerMap.drawer_setDrawer ..).trans (if_pos ⟨rfl, drawerOk_iff.mpr hr⟩)
    · exact (DrawerMap.drawer_setDrawer ..).trans (if_neg fun h => hx (congrArg Place.drawer h.1.symm))

/-- R107, R108, R146: an act that stops the conveyor with a recoverable fault, by mode. -/
theorem State.act_stops {s : State} {f : Part → Part} {k : FaultKind} {loc : Location} {job : Option Nat} {now : Nat}
    (hsettled : s.part.Settled) (hk : isFatal k = false)
    (e : s.part.ctl.mode ≠ .halted → s.part.ctl.mode ≠ .starting →
      f s.part = (Part.raiseFault (Part.stopConveyor { s.part with now := now }) k loc job).examineIdle) :
    let p := s.part
    let entry : FaultEntry := { kind := k, location := loc, job := job, mode := p.ctl.mode }
    let cycle : DoorCycle := if owesDoorCycle k then .owed else p.ctl.doorCycle
    (p.ctl.mode = .automatic ∨ p.ctl.mode = .parked ∨ p.ctl.mode = .waking →
      EntersService s (s.act f) p.path.account ∧ RecordsFault s (s.act f) entry ∧ (s.act f).part.ctl.doorCycle = cycle) ∧
    (p.ctl.mode = .service → Busy 1 s →
      s.act f = ({ s with part := { p with
          now := now
          ctl := { p.ctl with resumeFlag := false, doorCycle := cycle }
          conv := p.conv.intoService p.conv.queue
          faults := if p.faults.first = none then { p.faults with first := some entry }
            else { p.faults with later := min 255 (p.faults.later + 1) } } } : State).queued
        [.faultNote entry (if p.faults.first = none then .first else .counted)]) := by
  intro p entry cycle
  let q : Part := { p with now := now, conv := p.conv.intoService p.conv.queue }
  have stopped : Part.stopConveyor { p with now := now } = q := Part.stopConveyor_eq _
  have raised (h1 : p.ctl.mode ≠ .halted) (h2 : p.ctl.mode ≠ .starting) : f p = q.raiseFault k loc job := by
    rw [e h1 h2, stopped, Part.examineIdle_raiseFault loc job hk (by exact h1) (by exact h2)]
  refine ⟨fun hm => ?_, fun hm hbusy => ?_⟩
  · have faulting : p.Faulting q := by
      refine ⟨rfl, rfl, rfl, rfl, rfl, rfl, rfl, fun x => Conveyor.intoService_intoService .., ?_, rfl, rfl,
        congrArg Out.reset hsettled⟩
      simp only [q, Conveyor.intoService]
      split <;> rfl
    obtain ⟨enters, records, hcycle, -⟩ := State.act_faulting hk
      (raised (by rcases hm with h | h | h <;> (rw [h]; decide)) (by rcases hm with h | h | h <;> (rw [h]; decide))) hm faulting
    exact ⟨enters, records, hcycle⟩
  · have act := State.act_fault_service hk (raised (by rw [hm]; decide) (by rw [hm]; decide)) (by exact hm) (by exact hsettled) hbusy
    simp only [← hm] at act
    exact act

/-- Settles O50: each unmatched arrival or expired carry, by mode, and the set that a proving carry loses. -/
theorem conveyorFaultsEnterService : Obligations.ConveyorFaultsEnterService := by
  intro s pl hsettled hpl p locate stopped raises
  have ok : placeOk pl = true := by
    rcases hpl with rfl | ⟨d, rfl, hd⟩
    · rfl
    · exact drawerOk_iff.mpr hd
  have located (x : Place) : locate x = placeLocation x := by cases x <;> rfl
  have stops : p.conv.intoService p.conv.queue = stopped := by
    simp only [stopped]
    split
    · exact Conveyor.intoService_of_carrying ‹_› _
    · exact Conveyor.intoService_of_slip ‹_› _
    · exact Conveyor.intoService_of_rest (.inl ‹_›) _
    · exact Conveyor.intoService_of_rest (.inr ‹_›) _
  have raised {c : Instr} {f : Part → Part} {k : FaultKind} {loc : Location} {job : Option Nat} {now : Nat}
      (hc : exec c s = .next (s.act f)) (hk : isFatal k = false) (howes : owesDoorCycle k = decide (k = .sensorMismatch))
      (e : p.ctl.mode ≠ .halted → p.ctl.mode ≠ .starting →
        f p = (Part.raiseFault (Part.stopConveyor { p with now := now }) k loc job).examineIdle) : raises c k loc job now := by
    obtain ⟨enters, serves⟩ := State.act_stops hsettled hk e
    simp only [howes, decide_eq_true_iff] at enters serves
    refine ⟨fun hm => ⟨_, hc, enters hm⟩, fun hm hbusy => ?_⟩
    rw [← stops]
    exact hc.trans (congrArg Host.Outcome.next (serves hm hbusy))
  have arrives {loc : Location} {job : Option Nat}
      (e : p.ctl.mode ≠ .halted → p.ctl.mode ≠ .starting → p.arrive pl = p.arrivalMismatch loc job) :
      raises (.arrival pl) .sensorMismatch loc job p.now :=
    raised (if_pos ok) rfl rfl fun h1 h2 =>
      (Part.unlessHalted_of_ne h1 _).trans (congrArg Part.examineIdle (e h1 h2))
  refine ⟨fun t hc ht => ⟨fun d hd hlive => ?_, fun hplace hem => arrives fun h1 h2 => ?_, fun hplace => arrives fun h1 h2 => ?_,
    fun d hd hp hem hbusy hh hrest => ?_⟩, fun hc => arrives fun h1 h2 => ?_, fun hc hm => arrives fun h1 h2 => ?_⟩
  · refine raised rfl rfl rfl fun h1 h2 => (Part.unlessHalted_of_ne h1 _).trans ((Part.onCarryDeadline_of hc ht hd).trans ?_)
    have live : ¬ (t.proving && t.emptied) = true := by
      rcases hlive with h | h <;> simp [h]
    rw [Part.carryExpired, if_neg live, located]
    rfl
  · rw [Part.arrive_of_carrying pl h1 h2 hc ht, if_pos hplace, if_neg (by simp [hem])]
  · rw [Part.arrive_of_carrying pl h1 h2 hc ht, if_neg hplace, located]
  · intro a lost loses
    have silent : p.out = { reset := false, notices := [] } := hsettled
    -- the part before the end of the trip
    let q : Part := { p with
      now := max p.now d
      path := { p.path with account := p.path.account.returnToRemoved t.sheets }
      drawers := p.drawers.setAwaited t.place false
      out := { reset := false, notices := [lost] } }
    have expires : p.unlessHalted Part.onCarryDeadline = (q.endTrip t).examineIdle := by
      rw [Part.unlessHalted_of_ne hh, Part.onCarryDeadline_of hc ht hd]
      refine congrArg Part.examineIdle ((if_pos (by simp [hp, hem])).trans ?_)
      simp only [Part.loseSet, Part.raise, Part.modAccount, Part.reach, silent, Trip.report, setOutcome]
      rfl
    have ends {jobs : List Job} {ns : List Notice} (h : q.TripEnds t jobs ns) (hns : ns.length ≤ 1) : loses jobs ns := by
      refine ⟨p.drawers.setAwaited t.place false, congrArg Host.Outcome.next (State.act_raises (expires.trans
        ((Part.endTrip_examined h (fun hm => (hrest hm).1) fun hm => (hrest hm).2).trans ?_)) ?_ hbusy.sending ?_),
        DrawerMap.setAwaited_spec ..⟩
      · by_cases hm : p.ctl.mode = .automatic <;> simp [q, Part.unidled, hm] <;> rfl
      · exact Part.unidled_settled hsettled
      · have := hbusy.room
        simp only [List.length_cons]
        omega
    refine ⟨fun hj => ends (.noJob hj) (by simp), fun j hj hn => ⟨fun h => ends (.goesOn hj hn ?_) (by simp),
      fun o hrel h => ends (.ends hj hn ⟨hrel, ?_⟩) (by simp)⟩⟩
    · rcases h with h | h
      · exact .inr (.inl h)
      · exact .inl h
    · refine h.imp_right fun ⟨hs, ho, hruns⟩ => ⟨hs, ?_, ho⟩
      refine Bool.eq_false_iff.mpr fun hstarted => ?_
      obtain ⟨r, hr, hjob⟩ := Part.hasStartedRun_iff.mp hstarted
      exact hruns r hr hjob
  · rw [Part.arrive_of_unmatched pl h1 h2 (.inl hc), located]
  · rw [Part.arrive_of_unmatched pl h1 h2 (.inr ⟨hc, hm⟩), located]

end Sys2Proof.Machine
end

section
/-! Arrivals at a drawer and at the overflow tray (R107, R109, R112). -/

namespace Sys2Proof.Machine

/-! ## The delivery -/

theorem Part.job?_modJob {p : Part} {n : Nat} {f : Job → Job} {j : Job} (hf : ∀ i, (f i).number = i.number)
    (hj : p.job? n = some j) : (p.modJob n f).job? n = some (f j) := by
  have number : j.number = n := Part.job?_number hj
  have kept (i : Job) : (if i.number = n then f i else i).number = i.number := by split <;> simp [hf]
  unfold Part.job? at *
  simp only [Part.modJob, List.find?_map, Function.comp_def, kept, hj, Option.map_some, if_pos number]

/-- R17, R18: a change of the job's tallies alone. -/
theorem Part.goesOn_tally {p : Part} {j : Job} (f : Tallies → Tallies) : p.GoesOn (j.tally f) ↔ p.GoesOn j := Iff.rfl

theorem Part.endsWith_tally {p : Part} {j : Job} {o : JobOutcome} (f : Tallies → Tallies) :
    p.EndsWith (j.tally f) o ↔ p.EndsWith j o := Iff.rfl

/-- R107 steps 1 to 4: what a delivery records before its trip ends. -/
def Part.delivered (p : Part) (t : Trip) : Part :=
  let q := ((p.recordArrival t).modAccount fun a => a.returnToPlaced t.sheets).modJobOf t.job fun j =>
    j.tally fun c => c.addArrival (setOutcome t.void t.reason) t.place
  q.raise (t.report (setPlaceOf t.place))

/-- R107: a delivery, with the end of its trip. -/
theorem Part.deliver_eq (p : Part) (t : Trip) : p.deliver t = (p.delivered t).endTrip t := rfl

/-- R107: an ARRIVAL at the place of a trip whose bin is emptied. -/
theorem Part.arrive_of_match {p : Part} {t : Trip} (h1 : p.ctl.mode ≠ .halted) (h2 : p.ctl.mode ≠ .starting)
    (hc : p.conv.state = .carrying) (ht : p.conv.trip = some t) (hem : t.emptied = true) :
    p.arrive t.place = (p.delivered t).endTrip t := by
  rw [Part.arrive_of_carrying _ h1 h2 hc ht, if_pos rfl, if_pos hem, Part.deliver_eq]

/-- R107 steps 1 to 4, as one record. -/
theorem Part.delivered_eq (p : Part) (t : Trip) :
    p.delivered t = { p.recordArrival t with
      jobs := (p.modJobOf t.job fun j => j.tally fun c => c.addArrival (setOutcome t.void t.reason) t.place).jobs
      path := { p.path with account := p.path.account.returnToPlaced t.sheets }
      out := { p.out with notices := p.out.notices ++ [t.report (setPlaceOf t.place)] } } := by
  unfold Part.delivered Part.recordArrival Part.modJobOf
  cases t.place <;> cases t.job <;> rfl

/-- The job records after a delivery of a set of job `n`. -/
def Part.toldJobs (p : Part) (t : Trip) (n : Nat) : List Job :=
  p.jobs.jobs.map fun i =>
    if i.number = n then { i with tallies := i.tallies.addArrival (setOutcome t.void t.reason) t.place } else i

theorem Part.delivered_jobs {p : Part} {t : Trip} {n : Nat} (hj : t.job = some n) :
    (p.delivered t).jobs = { p.jobs with jobs := p.toldJobs t n } := by
  rw [Part.delivered_eq, hj]
  rfl

theorem Part.delivered_noJob {p : Part} {t : Trip} (hj : t.job = none) : (p.delivered t).jobs = p.jobs := by
  rw [Part.delivered_eq, hj]
  rfl

theorem Part.delivered_runs (p : Part) (t : Trip) : (p.delivered t).runs = p.runs := by
  rw [Part.delivered_eq]
  unfold Part.recordArrival
  split <;> rfl

theorem Part.delivered_started (p : Part) (t : Trip) (n : Nat) : (p.delivered t).hasStartedRun n = p.hasStartedRun n := by
  simp only [Part.hasStartedRun, Part.delivered_runs]

theorem Part.delivered_job? {p : Part} {t : Trip} {j : Job} (hj : t.job = some j.number) (hn : p.job? j.number = some j) :
    (p.delivered t).job? j.number = some (j.tally fun c => c.addArrival (setOutcome t.void t.reason) t.place) := by
  have told := Part.job?_modJob (f := fun i => i.tally fun c => c.addArrival (setOutcome t.void t.reason) t.place) (fun _ => rfl) hn
  unfold Part.job? at told ⊢
  rw [Part.delivered_jobs hj]
  exact told

theorem Part.delivered_goesOn {p : Part} {t : Trip} {j : Job} (hj : t.job = some j.number) (hn : p.job? j.number = some j)
    (h : p.GoesOn j) : (p.delivered t).TripEnds t (p.toldJobs t j.number) [] := by
  have ends := Part.TripEnds.goesOn (p := p.delivered t)
    (j := j.tally fun c => c.addArrival (setOutcome t.void t.reason) t.place) hj (Part.delivered_job? hj hn)
    ((Part.goesOn_tally _).mpr (by rwa [Part.GoesOn, Part.delivered_started]))
  rwa [Part.delivered_jobs hj] at ends

theorem Part.delivered_endsWith {p : Part} {t : Trip} {j : Job} {o : JobOutcome} (hj : t.job = some j.number)
    (hn : p.job? j.number = some j) (h : p.EndsWith j o) :
    (p.delivered t).TripEnds t ((p.toldJobs t j.number).filter fun i => i.number ≠ j.number)
      [.jobDone j.number o j.copies (j.tallies.addArrival (setOutcome t.void t.reason) t.place)] := by
  have ends := Part.TripEnds.ends (p := p.delivered t) (o := o)
    (j := j.tally fun c => c.addArrival (setOutcome t.void t.reason) t.place) hj (Part.delivered_job? hj hn)
    ((Part.endsWith_tally _).mpr (by rwa [Part.EndsWith, Part.delivered_started]))
  rwa [Part.delivered_jobs hj] at ends

/-- R107: an act that is an ARRIVAL at the place of a trip whose bin is emptied, no check starting a delivery. -/
theorem State.act_arrives {s : State} {t : Trip} {jobs : List Job} {ns : List Notice} (hbusy : Busy 2 s)
    (h1 : s.part.ctl.mode ≠ .halted) (h2 : s.part.ctl.mode ≠ .starting) (hc : s.part.conv.state = .carrying)
    (ht : s.part.conv.trip = some t) (hem : t.emptied = true) (hq : s.part.ctl.mode = .automatic → s.part.conv.queue = [])
    (hrun : s.part.runs.current.isSome = true) (ends : (s.part.delivered t).TripEnds t jobs ns) (hns : ns.length ≤ 1) :
    let p := s.part
    s.act (fun p => p.unlessHalted fun p => (p.arrive t.place).examineIdle) =
      ({ s with part := { p.unidled with
          jobs := { p.jobs with jobs := jobs }
          drawers := (p.recordArrival t).drawers
          path := { p.path with account := p.path.account.returnToPlaced t.sheets }
          conv := { (p.recordArrival t).conv with state := .idle, trip := none } } } : State).queued
        (t.report (setPlaceOf t.place) :: ns) := by
  intro p
  have silent : s.part.out = { reset := false, notices := [] } := hbusy.settled
  have mode : (p.delivered t).ctl = p.ctl := by
    rw [Part.delivered_eq]
    unfold Part.recordArrival
    split <;> rfl
  have queue : (p.delivered t).conv.queue = p.conv.queue := by
    rw [Part.delivered_eq]
    unfold Part.recordArrival
    split <;> rfl
  have waiting (f : Job → Job) : (s.part.modJobOf t.job f).jobs.queue = s.part.jobs.queue := by
    unfold Part.modJobOf
    split <;> rfl
  have examined := Part.endTrip_examined ends (by rw [mode, queue]; exact hq) fun _ => by rw [Part.delivered_runs]; exact hrun
  have arrives : p.unlessHalted (fun p => (p.arrive t.place).examineIdle) = ((p.delivered t).endTrip t).examineIdle := by
    rw [Part.unlessHalted_of_ne h1, Part.arrive_of_match h1 h2 hc ht hem]
  refine State.act_raises (arrives.trans (examined.trans ?_)) (Part.unidled_settled hbusy.settled) hbusy.sending ?_
  · rw [Part.delivered_eq]
    unfold Part.recordArrival
    by_cases hm : s.part.ctl.mode = .automatic <;> split <;> simp [p, Part.unidled, hm, silent, waiting]
  · have := hbusy.room
    simp only [List.length_cons]
    omega

/-! ## O48: the arrival at a drawer -/

/-- R115, R117: a set is laid in drawer `d`. -/
theorem DrawerMap.arrive_spec {m : DrawerMap} {d : Nat} {q : Pile} (t : Nat) (hd : 1 ≤ d ∧ d ≤ 20) (hq : (m.drawer d).pile = some q) :
    let k := m.arrive d t
    k.drawer d = { m.drawer d with pile := some { count := q.count + 1, stack := q.stack + t }, awaited := false } ∧
    (∀ e, e ≠ d → k.drawer e = m.drawer e) ∧ k.nv = m.nv ∧
    (d ≤ 16 → k.marker ((d - 1) / 2) = (if d % 2 = 1 then .one else .two) ∧ k.tree = m.tree ∧
      ∀ r, r ≠ (d - 1) / 2 → k.marker r = m.marker r) ∧
    (17 ≤ d → k.markers = m.markers ∧ k.tree = m.tree.use d) := by
  intro k
  have ok := drawerOk_iff.mpr hd
  let laid := m.setDrawer d { m.drawer d with pile := some { count := q.count + 1, stack := q.stack + t }, awaited := false }
  have used : k = laid.use d := by
    simp only [k, DrawerMap.arrive, hq, Option.map_some]
    rfl
  have read (e : Nat) : k.drawer e = laid.drawer e := by rw [used, DrawerMap.drawer_use]
  refine ⟨?_, fun e he => ?_, ?_, fun h => ?_, fun h => ?_⟩
  · rw [read, DrawerMap.drawer_setDrawer, if_pos ⟨rfl, ok⟩]
  · rw [read, DrawerMap.drawer_setDrawer, if_neg fun h => he h.1]
  · rw [used, DrawerMap.use_nv, DrawerMap.setDrawer_nv]
  · have row : k = laid.setMarker (rowOf d) (wayOf d) := by
      rw [used]
      exact if_neg (by rw [isFlexible_iff]; omega)
    have marker (r : Nat) : k.marker r = if r = (d - 1) / 2 then (if d % 2 = 1 then .one else .two) else m.marker r := by
      rw [row, DrawerMap.marker_setMarker _ _ _ _ (by simp [rowOf]; omega), DrawerMap.marker_congr (DrawerMap.setDrawer_markers _ _ _)]
      rfl
    refine ⟨by rw [marker, if_pos rfl], ?_, fun r hr => by rw [marker, if_neg hr]⟩
    rw [row, DrawerMap.setMarker_tree, DrawerMap.setDrawer_tree]
  · rw [used, DrawerMap.use_of_flexible (isFlexible_iff.mpr ⟨h, hd.2⟩)]
    exact ⟨DrawerMap.setDrawer_markers .., congrArg (fun x : Tree => x.use d) (DrawerMap.setDrawer_tree ..)⟩

/-- Settles O48: the delivery to a drawer, and the end of its job. -/
theorem arrivalAtTheDrawer : Obligations.ArrivalAtTheDrawer := by
  intro s t j d q hbusy h1 h2 hc ht hem hplace hd hq hj hn hqueue hrun p m a outcome tallies placed arrives told started
  have ok : placeOk (.drawer d) = true := drawerOk_iff.mpr hd
  have lands {jobs : List Job} {ns : List Notice} (ends : (p.delivered t).TripEnds t jobs ns) (hns : ns.length ≤ 1) :
      arrives jobs (placed :: ns) := by
    refine ⟨m.arrive d t.stack, ?_, DrawerMap.arrive_spec t.stack hd hq⟩
    have act := State.act_arrives hbusy h1 h2 hc ht hem hqueue hrun ends hns
    simp only [Part.recordArrival, hplace] at act
    exact (if_pos ok).trans (congrArg Host.Outcome.next act)
  have same : told = p.toldJobs t j.number := by
    simp only [told, Part.toldJobs, hplace]
    rfl
  refine ⟨fun h => ?_, fun o hrel h => ?_⟩
  · rw [same]
    refine lands (Part.delivered_goesOn hj hn ?_) (by simp)
    simpa only [Part.GoesOn, Part.hasStartedRun_iff] using h
  · have ends : p.EndsWith j o := by
      refine ⟨hrel, ?_⟩
      rw [Bool.eq_false_iff, Ne, Part.hasStartedRun_iff]
      exact h
    have landed := lands (Part.delivered_endsWith hj hn ends) (by simp)
    rw [hplace, ← same] at landed
    exact landed

/-! ## O49: the arrival at the overflow tray -/

/-- Settles O49: the delivery to the overflow tray by its header, and the end of its job. -/
theorem arrivalAtTheTray : Obligations.ArrivalAtTheTray := by
  intro s t hbusy h1 h2 hc ht hem hplace hqueue hrun p a tray outcome lays arrives
  have lands {jobs : List Job} {ns : List Notice} {groups : List Group} (hlay : (tray.lay t).groups = groups)
      (ends : (p.delivered t).TripEnds t jobs ns) (hns : ns.length ≤ 1) : lays jobs ns groups := by
    subst hlay
    have act := State.act_arrives hbusy h1 h2 hc ht hem hqueue hrun ends hns
    simp only [Part.recordArrival, hplace] at act
    have drawers : s.part.drawers = s.part.unidled.drawers := by simp
    rw [drawers] at act
    exact congrArg Host.Outcome.next act
  have told (n : Nat) : p.toldJobs t n =
      p.jobs.jobs.map fun i => if i.number = n then { i with tallies := i.tallies.addArrival outcome .overflow } else i := by
    simp only [Part.toldJobs, hplace]
    rfl
  have all {groups : List Group} (hlay : (tray.lay t).groups = groups) : arrives groups := by
    refine ⟨fun hj => ?_, fun j hj hn => ⟨fun h => ?_, fun o hrel h => ?_⟩⟩
    · have ends := Part.TripEnds.noJob (p := p.delivered t) hj
      rw [Part.delivered_noJob hj] at ends
      exact lands hlay ends (by simp)
    · have landed := lands hlay (Part.delivered_goesOn hj hn
        (by simpa only [Part.GoesOn, Part.hasStartedRun_iff] using h)) (by simp)
      rwa [told] at landed
    · have ends : p.EndsWith j o := by
        refine ⟨hrel, ?_⟩
        rw [Bool.eq_false_iff, Ne, Part.hasStartedRun_iff]
        exact h
      have landed := lands hlay (Part.delivered_endsWith hj hn ends) (by simp)
      rwa [told, hplace] at landed
  refine ⟨fun gs g hh hg => all ?_, fun hh => all ?_, fun hh => all ?_⟩
  · have last : tray.groups.getLast? = some g := by simp [hg]
    have rest : tray.groups.dropLast = gs := by simp [hg]
    simp only [Tray.lay, hh, last, rest]
  · simp only [Tray.lay, hh]
    rfl
  · simp only [Tray.lay, hh]
    rfl

end Sys2Proof.Machine
end

section
/-! Grants (R7, R8): JOB_OPEN and BIN_EMPTIED. -/

namespace Sys2Proof.Machine

/-! ## The grant -/

theorem Part.assignBins_eq (n : Nat) (bs : List Nat) (p : Part) (k : Nat) :
    p.assignBins n k bs = { p with bins := (p.assignBins n k bs).bins } := by
  induction bs generalizing p k with
  | nil => rfl
  | cons b bs ih =>
    unfold Part.assignBins
    rw [ih, Part.setBin_bins]

/-- R7, R8: the records of a grant: the job ACTIVE with the bins chosen, each ASSIGNED with an empty set record of its copy. -/
theorem Part.grant_spec (p : Part) (j : Job) (rest : List Nat) (h : j.copies ≤ p.freeBins.length) :
    ∃ bins, p.grant j rest = { p with
        jobs := {
          jobs := p.jobs.jobs.map fun i =>
            if i.number = j.number then
              { i with state := .active, bins := (p.chooseBins j.copies).map fun b => { bin := b, released := false } }
            else i
          queue := rest }
        bins := bins
        out := { p.out with notices := p.out.notices ++ [.jobReady j.number j.copies (p.chooseBins j.copies)] } } ∧
      (∀ i c, (p.chooseBins j.copies)[i]? = some c →
        Part.bin { p with bins := bins } c = { state := .assigned, set := { job := some j.number, copy := some (i + 1) } }) ∧
      ∀ c, c ∉ p.chooseBins j.copies → Part.bin { p with bins := bins } c = p.bin c := by
  obtain ⟨-, nodup, free⟩ := p.chooseBins_spec h
  let q : Part := { p with jobs := { p.jobs with queue := rest } }
  let r : Part := q.modJob j.number fun i =>
    { i with state := .active, bins := (p.chooseBins j.copies).map fun b => { bin := b, released := false } }
  have valid (b : Nat) (hb : b ∈ p.chooseBins j.copies) : binOk b = true := by
    have := free b hb
    simp only [Part.isFree, Bool.and_eq_true] at this
    exact this.1
  obtain ⟨given, kept⟩ := Part.bin_assignBins j.number (p.chooseBins j.copies) r 1 nodup valid
  refine ⟨(r.assignBins j.number 1 (p.chooseBins j.copies)).bins, ?_, fun i c hc => ?_, fun c hc => kept c hc⟩
  · have granted : p.grant j rest = (r.assignBins j.number 1 (p.chooseBins j.copies)).raise
        (.jobReady j.number j.copies (p.chooseBins j.copies)) := rfl
    rw [granted, Part.assignBins_eq]
    rfl
  · rw [Nat.add_comm i 1]
    exact given i c hc

/-- R7: fewer bins are FREE than before by those of a grant. -/
theorem Part.freeBins_granted {p q : Part} {n : Nat} (h : n ≤ p.freeBins.length)
    (given : ∀ c ∈ p.chooseBins n, (q.bin c).state ≠ .free) (kept : ∀ c, c ∉ p.chooseBins n → q.bin c = p.bin c) :
    q.freeBins.length + n ≤ p.freeBins.length := by
  obtain ⟨length, nodup, free⟩ := p.chooseBins_spec h
  have mem (r : Part) (c : Nat) : c ∈ r.freeBins ↔ c ∈ allBins ∧ r.isFree c = true := List.mem_filter
  have isFree (r : Part) (c : Nat) : r.isFree c = true ↔ binOk c = true ∧ (r.bin c).state = .free := by
    simp [Part.isFree]
  have apart : List.Disjoint q.freeBins (p.chooseBins n) := by
    intro c hq hc
    exact given c hc ((isFree q c).mp ((mem q c).mp hq).2).2
  have subset : q.freeBins ++ p.chooseBins n ⊆ p.freeBins := by
    intro c hc
    rcases List.mem_append.mp hc with hc | hc
    · obtain ⟨ha, hf⟩ := (mem q c).mp hc
      obtain ⟨ok, state⟩ := (isFree q c).mp hf
      have same := kept c fun h => apart hc h
      exact (mem p c).mpr ⟨ha, (isFree p c).mpr ⟨ok, same ▸ state⟩⟩
    · have hf := free c hc
      exact (mem p c).mpr ⟨mem_allBins.mpr (binOk_iff.mp ((isFree p c).mp hf).1), hf⟩
  have distinct : (q.freeBins ++ p.chooseBins n).Nodup :=
    List.Nodup.append (allBins_nodup.filter _) nodup apart
  have := (distinct.subperm subset).length_le
  rw [List.length_append, length] at this
  exact this

/-- R7: a head that needs more bins than are FREE waits. -/
theorem Part.grantCheck_of_short {p : Part} {n : Nat} {rest : List Nat} {k : Job} (hq : p.jobs.queue = n :: rest)
    (hn : p.job? n = some k) (short : p.freeBins.length < k.copies) : p.grantCheck = p := by
  simp only [Part.grantCheck, hq, List.length_cons, Part.grantCheckN, hn, if_neg (Nat.not_le.mpr short)]

/-- R7: a head that needs no more is granted, and where too few bins are left for the next job that is all. -/
theorem Part.grantCheck_one {p : Part} {n : Nat} {rest : List Nat} {k : Job} (hq : p.jobs.queue = n :: rest)
    (hn : p.job? n = some k) (enough : k.copies ≤ p.freeBins.length)
    (next : ∀ m g, rest.head? = some m → p.job? m = some g → p.freeBins.length < k.copies + g.copies) :
    p.grantCheck = p.grant k rest := by
  have checks : p.grantCheck = Part.grantCheckN rest.length (p.grant k rest) := by
    simp only [Part.grantCheck, hq, List.length_cons, Part.grantCheckN, hn, if_pos enough]
  rw [checks]
  obtain ⟨bins, granted, given, kept⟩ := p.grant_spec k rest enough
  cases rest with
  | nil => rfl
  | cons m rest =>
    let q := p.grant k (m :: rest)
    have left : q.freeBins.length + k.copies ≤ p.freeBins.length := by
      have same (c : Nat) : q.bin c = Part.bin { p with bins := bins } c := Part.bin_congr (by simp only [q, granted]) c
      refine Part.freeBins_granted enough (fun c hc => ?_) fun c hc => by rw [same, kept c hc]
      obtain ⟨i, hi⟩ := List.mem_iff_getElem?.mp hc
      rw [same, given i c hi]
      exact nofun
    have queue : q.jobs.queue = m :: rest := by simp only [q, granted]
    have copies (g : Job) (hg : q.job? m = some g) : ∃ g', p.job? m = some g' ∧ g'.copies = g.copies := by
      have number (i : Job) : (if i.number = k.number then
          { i with state := .active, bins := (p.chooseBins k.copies).map fun b => { bin := b, released := false } } else i).number =
          i.number := by
        split <;> rfl
      simp only [q, granted, Part.job?, List.find?_map, Function.comp_def, number] at hg
      obtain ⟨g', hg', rfl⟩ := Option.map_eq_some_iff.mp hg
      exact ⟨g', hg', by split <;> rfl⟩
    change Part.grantCheckN (rest.length + 1) q = q
    simp only [Part.grantCheckN, queue]
    cases hg : q.job? m with
    | none => rfl
    | some g =>
      obtain ⟨g', hg', same⟩ := copies g hg
      have := next m g' rfl hg'
      exact if_neg (by omega)

/-! ## O8: JOB_OPEN -/

theorem Part.job?_cons {p : Part} {j : Job} (hnew : p.job? j.number = none) (q : List Nat) (m : Nat) :
    Part.job? { p with jobs := { jobs := p.jobs.jobs ++ [j], queue := q } } m = if m = j.number then some j else p.job? m := by
  unfold Part.job? at hnew ⊢
  rw [List.find?_append]
  split
  · next h =>
    subst h
    simp [hnew]
  · next h => simp [List.find?, beq_eq_false_iff_ne.mpr (Ne.symm h)]

/-- R6: the place of a job in the queue, urgent jobs `us` before the others `ns`. -/
theorem Part.enqueueJob_eq {p : Part} {us ns : List Nat} (n : Nat) (hq : p.jobs.queue = us ++ ns) (hus : ∀ m ∈ us, p.urgent m)
    (hns : ∀ m ∈ ns, ¬ p.urgent m) :
    p.enqueueJob n .normal = us ++ ns ++ [n] ∧ p.enqueueJob n .urgent = us ++ n :: ns := by
  have first : (us ++ ns).filter (fun m => ((p.job? m).map Job.priority) == some .urgent) = us := by
    rw [List.filter_append, List.filter_eq_self.mpr fun m hm => by simpa [Part.urgent] using hus m hm,
      List.filter_eq_nil_iff.mpr fun m hm => by simpa [Part.urgent] using hns m hm, List.append_nil]
  have second : (us ++ ns).filter (fun m => !(((p.job? m).map Job.priority) == some .urgent)) = ns := by
    rw [List.filter_append, List.filter_eq_nil_iff.mpr fun m hm => by simpa [Part.urgent] using hus m hm,
      List.filter_eq_self.mpr fun m hm => by simpa [Part.urgent] using hns m hm, List.nil_append]
  refine ⟨by rw [Part.enqueueJob, hq], ?_⟩
  simp only [Part.enqueueJob, hq, first, second]

/-- Settles O8: the job's place in the queue, and the grant of a job that becomes the head. -/
theorem jobOpenWaitsOrIsGranted : Obligations.JobOpenWaitsOrIsGranted := by
  intro s tag j us ns hfree hserve hfresh hnew hroom hq hus hns waits
  have hl : lengthOk .jobOpen j.openFields = true := rfl
  have hf : j.openFields.length ≤ 248 := by
    have : j.openFields.length = 9 := rfl
    omega
  have hm : s.part.ctl.mode ∈ acceptingModes .jobOpen := hserve.accepts (by decide)
  let opened (q : List Nat) : Part := { s.part with jobs := { jobs := s.part.jobs.jobs ++ [j], queue := q } }
  have act {q : List Nat} (hplace : s.part.enqueueJob j.number j.priority = q) :
      s.part.act s.link .jobOpen j.openFields =
        (if q.head? = some j.number then (opened q).grantCheck else opened q).accept .ok .empty := by
    refine (s.part.jobOpen_of_record (Job.record_openFields hfresh)).trans ?_
    have few : ¬ jobLimit ≤ s.part.jobs.jobs.length := Nat.not_le.mpr hroom
    rw [hnew, if_neg (by simp), if_neg few, Part.admitJob, hplace]
  have waiting {q : List Nat} (hplace : s.part.enqueueJob j.number j.priority = q)
      (h : q.head? = some j.number → (opened q).grantCheck = opened q) : waits q := by
    refine congrArg Host.Outcome.next (hfree.accepted tag hf hm hl (by exact hfree.settled) ((act hplace).trans ?_))
    split
    · rw [h ‹_›]
    · rfl
  have other (m : Nat) (h : m ∈ us ++ ns) : m ≠ j.number := by
    rintro rfl
    rcases List.mem_append.mp h with h | h
    · simpa [Part.urgent, hnew] using hus _ h
    · exact (hns _ h).1 rfl
  obtain ⟨normal, urgent⟩ := Part.enqueueJob_eq j.number hq hus fun m h => (hns m h).2
  have head (h : us = [] ∧ (ns = [] ∨ j.priority = .urgent)) : s.part.enqueueJob j.number j.priority = j.number :: ns := by
    obtain ⟨rfl, h⟩ := h
    cases hp : j.priority with
    | normal =>
      obtain rfl : ns = [] := h.resolve_right (by simp [hp])
      exact normal
    | urgent => exact urgent
  have known (q : List Nat) : (opened q).job? j.number = some j := (Part.job?_cons hnew q j.number).trans (if_pos rfl)
  refine ⟨fun hp hne => waiting (by rw [hp, normal]) fun h => ?_, fun hp hne => waiting (by rw [hp, urgent]) fun h => ?_,
    fun h short => waiting (head h) fun _ => Part.grantCheck_of_short (by rfl) (known _) short, fun h hout enough next => ?_⟩
  · rw [List.head?_append_of_ne_nil _ hne] at h
    exact absurd rfl (other _ (List.mem_of_head? h))
  · rw [List.head?_append_of_ne_nil _ hne] at h
    exact absurd rfl (other _ (List.mem_append_left _ (List.mem_of_head? h)))
  · let p := opened (j.number :: ns)
    have granted : p.grantCheck = p.grant j ns := by
      refine Part.grantCheck_one (by rfl) (known _) enough fun m g hm' hg => ?_
      have := Part.job?_cons hnew (j.number :: ns) m
      rw [if_neg (other m (List.mem_append_right _ (List.mem_of_head? hm')))] at this
      exact next m g hm' (this.symm.trans hg)
    obtain ⟨bins, grants, given, kept⟩ := p.grant_spec j ns enough
    have silent : s.part.out = { reset := false, notices := [] } := hfree.settled
    let t : Part := { p with
      jobs := {
        jobs := p.jobs.jobs.map fun i =>
          if i.number = j.number then
            { i with state := .active, bins := (p.chooseBins j.copies).map fun b => { bin := b, released := false } }
          else i
        queue := ns }
      bins := bins }
    refine ⟨t, s.part.chooseBins j.copies, Part.chooseBins_takes s.part enough, ?_, ?_, given, kept⟩
    · refine congrArg Host.Outcome.next (hfree.acceptedRaising (q := { s.part with jobs := t.jobs, bins := t.bins }) tag hf hm hl
        (by exact silent) ((act (head h)).trans ?_) (.inr (by simpa using hout)))
      rw [if_pos (by rfl)]
      refine congrArg (fun x : Part => x.accept .ok .empty) (granted.trans (grants.trans ?_))
      simp only [p, opened, silent, List.nil_append]
      rfl
    · have rest : s.part.jobs.jobs.map (fun i => if i.number = j.number then
          { i with state := .active, bins := (p.chooseBins j.copies).map fun b => { bin := b, released := false } } else i) =
          s.part.jobs.jobs := by
        refine (List.map_congr_left fun i hi => if_neg ?_).trans (List.map_id' _)
        simpa using List.find?_eq_none.mp hnew i hi
      have added : t.jobs.jobs = s.part.jobs.jobs.map _ ++ [j].map _ := List.map_append
      rw [rest] at added
      exact congrArg (fun l => { jobs := l, queue := ns : JobTable }) (added.trans (by simp; rfl))

/-! ## O47: BIN_EMPTIED -/

/-- R69: a bin whose job's set is on the conveyor is freed, and the grant check made. -/
theorem Part.releaseBin_onConveyor {p : Part} {b : Nat} {t : Trip} (ht : p.conv.trip = some t) (hj : t.job = (p.bin b).set.job) :
    p.releaseBin b = Part.grantCheck { p.setBin b Bin.free with
      jobs := { p.jobs with jobs := p.jobs.jobs.map fun j => if t.job = some j.number then j.release b else j } } := by
  unfold Part.releaseBin Part.freeBin Part.binJob
  rw [← hj]
  cases hn : t.job with
  | none =>
    have same : ({ p.setBin b Bin.free with
        jobs := { p.jobs with jobs := p.jobs.jobs.map fun j => if (none : Option Nat) = some j.number then j.release b else j } } : Part) =
        p.setBin b Bin.free := by
      have jobs : (p.setBin b Bin.free).jobs = p.jobs := Part.setBin_jobs ..
      simp only [reduceCtorEq, if_false, List.map_id', ← jobs]
    exact congrArg Part.grantCheck same.symm
  | some n =>
    have released : ((p.setBin b Bin.free).modJob n fun j => (j.release b).tally id) =
        { p.setBin b Bin.free with
          jobs := { p.jobs with jobs := p.jobs.jobs.map fun j => if some n = some j.number then j.release b else j } } := by
      simp only [Part.modJob, Part.setBin_jobs, Option.some.injEq, eq_comm (a := n)]
      rfl
    dsimp only
    rw [released, Part.testEnd_of_none fun i hi => ?_]
    have number : i.number = n := Part.job?_number hi
    refine Part.endOf_none fun _ => .inr (.inl ?_)
    simp [Part.onConveyor, ht, hn, number]

/-- Settles O47: the bin freed, and the grant check by the head of the queue. -/
theorem binEmptiedFreesTheBin : Obligations.BinEmptiedFreesTheBin := by
  intro s b t hsettled hh hb ht p l freed released empties
  have exec_eq : exec (.binEmptied b) s =
      .next (s.act fun p => ({ p with lines := p.lines.clearBin b } : Part).unlessHalted fun p => p.onBinEmptied b) :=
    if_pos (binOk_iff.mpr hb)
  have runs : Part.unlessHalted { p with lines := l } (fun p => p.onBinEmptied b) = Part.onBinEmptied { p with lines := l } b :=
    Part.unlessHalted_of_ne (by exact hh) _
  refine ⟨fun hc htb hem hjob => ?empties, fun h => ?ignored⟩
  case ignored =>
    refine exec_eq.trans (congrArg Host.Outcome.next (State.act_of (runs.trans ?_) (by exact hsettled)))
    unfold Part.onBinEmptied
    split
    · next t' hc ht' =>
      obtain rfl : t = t' := Option.some.inj (ht.symm.trans ht')
      refine if_neg fun h' => ?_
      rcases h with h | h | h
      · exact h hc
      · exact h h'.1
      · simp [h'.2] at h
    · rfl
  case empties =>
    intro plain
    have silent : p.out = { reset := false, notices := [] } := hsettled
    -- the part with the bin freed, before the grant check
    let q : Part := { freed with
      lines := l
      conv := { p.conv with trip := some { t with emptied := true } }
      jobs := { p.jobs with jobs := p.jobs.jobs.map released } }
    have empties_eq : Part.unlessHalted { p with lines := l } (fun p => p.onBinEmptied b) = q.grantCheck.examineIdle := by
      have match_ : t.bin = b ∧ t.emptied = false := ⟨htb, hem⟩
      have checked := Part.releaseBin_onConveyor (b := b) (t := { t with emptied := true })
        (p := { p with lines := l, conv := { p.conv with trip := some { t with emptied := true } } }) rfl hjob
      have trip : Part.modTrip { p with lines := l } (fun t => { t with emptied := true }) =
          { p with lines := l, conv := { p.conv with trip := some { t with emptied := true } } } := by
        simp only [Part.modTrip, show p.conv.trip = _ from ht, Option.map_some]
      rw [runs]
      simp only [Part.onBinEmptied, show p.conv.state = _ from hc, show p.conv.trip = _ from ht, match_, and_self, if_true]
      rw [trip, checked]
      simp only [q, freed, Part.setBin_of hb]
      rfl
    have busy (x : Part) (h : x.conv = q.conv) : x.examineIdle = x.unidled := by
      refine Part.examineIdle_of_not fun _ hi => ?_
      have := hi.conveyor
      rw [h] at this
      exact absurd (hc.symm.trans this) (by decide)
    have stays (h : q.grantCheck = q) : exec (.binEmptied b) s = .next plain := by
      refine exec_eq.trans (congrArg Host.Outcome.next (State.act_of (empties_eq.trans ?_) ?_))
      · rw [h, busy q rfl]
        simp only [q, freed, Part.setBin_of hb]
        unfold Part.unidled
        dsimp only
        split <;> rfl
      · simpa [plain, empties, freed, Part.Settled] using silent
    have kept (i : Job) : (released i).number = i.number := by
      simp only [released]
      split <;> rfl
    have table (n : Nat) : q.job? n = (p.job? n).map released := by
      simp only [q, Part.job?, List.find?_map, Function.comp_def, kept]
    have copies (k : Job) : (released k).copies = k.copies := by
      simp only [released]
      split <;> rfl
    refine ⟨fun hq => stays (Part.grantCheck_of_empty (by exact hq)), fun n rest k hq hk => ⟨fun short => stays ?_,
      fun hbusy enough next => ?_⟩⟩
    · exact Part.grantCheck_of_short (by exact hq) ((table n).trans (congrArg _ hk)) (by rw [copies]; exact short)
    · have granted : q.grantCheck = q.grant (released k) rest := by
        refine Part.grantCheck_one (by exact hq) ((table n).trans (congrArg _ hk)) (by rw [copies]; exact enough) fun m g hm hg => ?_
        rw [table] at hg
        obtain ⟨g', hg', rfl⟩ := Option.map_eq_some_iff.mp hg
        rw [copies, copies]
        exact next m g' hm hg'
      obtain ⟨bins, grants, given, others⟩ := q.grant_spec (released k) rest (by rw [copies]; exact enough)
      have number : (released k).number = n := (kept k).trans (Part.job?_number hk)
      simp only [number, copies] at grants given others
      let u : Part := { q with
        jobs := {
          jobs := q.jobs.jobs.map fun i =>
            if i.number = n then
              { i with state := .active, bins := (q.chooseBins k.copies).map fun b => { bin := b, released := false } }
            else i
          queue := rest }
        bins := bins }
      refine ⟨u, freed.chooseBins k.copies, Part.chooseBins_takes freed enough, ?_, ?_, given, others⟩
      · refine exec_eq.trans (congrArg Host.Outcome.next
          (State.act_raises (q := (empties u).part) (empties_eq.trans ?_) ?_ hbusy.sending (by simpa using hbusy.room)))
        · rw [granted, grants]
          refine (busy _ (by rfl)).trans ?_
          have same : q.chooseBins k.copies = freed.chooseBins k.copies := rfl
          rw [same]
          simp only [empties, u, q, freed, Part.setBin_of hb, silent, List.nil_append]
          unfold Part.unidled
          dsimp only
          split <;> rfl
        · simpa [empties, freed, Part.Settled] using silent
      · simp only [u, q, List.map_map, Function.comp_def, kept]
        refine congrArg (fun l => { jobs := l, queue := rest : JobTable }) (List.map_congr_left fun i _ => ?_)
        by_cases hi : i.number = n
        · simp only [hi, if_true, released]
          split <;> rfl
        · simp only [hi, if_false]

end Sys2Proof.Machine
end

section
/-! COLLECTED and OVERFLOW_EMPTIED (R111, R125). -/

namespace Sys2Proof.Machine

/-! ## O51: the overflow tray emptied -/

/-- Settles O51: with no set held for lack of room the eject queue stays as it is. -/
theorem overflowEmptiedClearsTheTray : Obligations.OverflowEmptiedClearsTheTray := by
  intro s hsettled hh hwork hqueue p
  have header : Header.afterEmptied = fun h => if h = .joins ∨ h = .marked then .unmarked else h := by
    funext h
    cases h <;> rfl
  have untested (q : Part) : s.part.conv.queue.map q.retest = s.part.conv.queue := by
    refine (List.map_congr_left fun e he => if_neg fun h => ?_).trans (List.map_id' _)
    exact hqueue e he (by simpa using h.1)
  refine congrArg Host.Outcome.next (State.act_of (q := { p.unidled with
    lines := { p.lines with occ := { p.lines.occ with overflow := false } }
    conv := { p.conv with
      tray := { sets := 0, stack := 0, heldFull := false, groups := [] }
      trip := p.conv.trip.map fun t => { t with header := t.header.map fun h =>
        if h = .joins ∨ h = .marked then .unmarked else h } } })
    ((Part.unlessHalted_of_ne (by exact hh) _).trans ?_) (Part.unidled_settled (by exact hsettled)))
  simp only [Part.onOverflowEmptied, Part.clearOverflowLine, untested, header]
  rw [Part.AtWork.choiceCheck (by exact hwork), Part.AtWork.examineIdle (by exact hwork)]
  unfold Part.unidled
  dsimp only
  split <;> rfl

/-! ## O53: a drawer collected -/

/-- A record written without its nonvolatile copy; every other drawer, the copies, the markers and the tree stay. -/
theorem DrawerMap.written (m : DrawerMap) {d : Nat} (ok : drawerOk d = true) (r : Drawer) :
    let k := m.setDrawer d r
    k.drawer d = r ∧ k.nvOf d = m.nvOf d ∧ (∀ c, c ≠ d → k.drawer c = m.drawer c ∧ k.nvOf c = m.nvOf c) ∧
      k.markers = m.markers ∧ k.tree = m.tree := by
  intro k
  refine ⟨by simp [k, DrawerMap.drawer_setDrawer, ok], DrawerMap.nvOf_setDrawer .., fun c hc => ⟨?_, DrawerMap.nvOf_setDrawer ..⟩,
    DrawerMap.setDrawer_markers .., DrawerMap.setDrawer_tree ..⟩
  rw [DrawerMap.drawer_setDrawer, if_neg fun h => hc h.1]

theorem DrawerMap.openDrawer_isSome {m : DrawerMap} {dest : Nat} :
    (m.openDrawer dest).isSome = true ↔ ∃ e, 1 ≤ e ∧ e ≤ 20 ∧ (m.drawer e).state = .open ∧ (m.drawer e).dest = some dest := by
  simp [DrawerMap.openDrawer, mem_allDrawers, and_assoc]

/-- R125: the drawers other than `d` that are OPEN for the destination: one of them. -/
theorem filter_allDrawers_eq_singleton {f : Nat → Bool} {e : Nat} (he : 1 ≤ e ∧ e ≤ 20)
    (h : ∀ c, 1 ≤ c ∧ c ≤ 20 → (f c = true ↔ c = e)) : allDrawers.filter f = [e] := by
  have same : allDrawers.filter f = allDrawers.filter (· == e) :=
    List.filter_congr fun c hc => by
      have := h c (mem_allDrawers.mp hc)
      cases hf : f c <;> simp_all
  have once : allDrawers.count e = 1 := List.count_eq_one_of_mem (List.nodup_range' (step := 1) ..) (mem_allDrawers.mpr he)
  rw [same, List.filter_beq, once]
  rfl

/-- R125: the close of an OPEN drawer. -/
theorem DrawerMap.close_spec (m : DrawerMap) {e : Nat} (ok : drawerOk e = true) :
    let x := m.drawer e
    let k := (m.close e).1
    (m.close e).2 = [{ drawer := e, dest := (k.drawer e).dest, before := x.dest, state := (k.drawer e).state, locked := x.locked
                       pile := x.pile, cause := .closed }] ∧
    (x.pile.map Pile.count = some 0 ∧ x.awaited = false →
      k.drawer e = { x with dest := none, state := .unassigned } ∧ k.nvOf e = { dest := none, locked := x.locked }) ∧
    (¬ (x.pile.map Pile.count = some 0 ∧ x.awaited = false) → k.drawer e = { x with state := .closing } ∧ k.nvOf e = m.nvOf e) ∧
    (∀ c, c ≠ e → k.drawer c = m.drawer c ∧ k.nvOf c = m.nvOf c) ∧ k.markers = m.markers ∧ k.tree = m.tree := by
  intro x k
  obtain ⟨gone, copy, others, markers, tree⟩ := m.rewritten ok { x with dest := none, state := .unassigned }
  obtain ⟨closing, copy', others', markers', tree'⟩ := m.written ok { x with state := .closing }
  have closes : m.close e =
      let k := if (x.empty && !x.awaited) = true then (m.setDrawer e { x with dest := none, state := .unassigned }).rewriteNv e
        else m.setDrawer e { x with state := .closing }
      (k, [k.change e x.dest .closed]) := rfl
  by_cases idle : x.pile.map Pile.count = some 0 ∧ x.awaited = false
  · have closed := closes
    rw [if_pos (by simp [Drawer.empty, idle])] at closed
    simp only [k, closed]
    refine ⟨?_, fun _ => ⟨gone, copy⟩, fun h => absurd idle h, others, markers, tree⟩
    simp only [DrawerMap.change, gone]
  · have closed := closes
    rw [if_neg (by simpa [Drawer.empty] using idle)] at closed
    simp only [k, closed]
    refine ⟨?_, fun h => absurd h idle, fun _ => ⟨closing, copy'⟩, others', markers', tree'⟩
    simp only [DrawerMap.change, closing]

/-- R125: the close of the one other drawer that is OPEN for the destination. -/
theorem DrawerMap.closeOthers_of_one {m : DrawerMap} {dest keep e : Nat} (he : 1 ≤ e ∧ e ≤ 20)
    (h : ∀ c, 1 ≤ c ∧ c ≤ 20 → (c ≠ keep ∧ (m.drawer c).state = .open ∧ (m.drawer c).dest = some dest ↔ c = e)) :
    m.closeOthers dest keep = m.close e := by
  unfold DrawerMap.closeOthers
  rw [filter_allDrawers_eq_singleton he fun c hc => by simpa [and_assoc] using h c hc]
  rfl

/-- A collected drawer's record: no set and no stack. -/
def Drawer.collected (r : Drawer) : Drawer := { r with pile := some { count := 0, stack := 0 } }

/-- R125: the notice of a collected drawer. -/
def Drawer.collectedChange (r : Drawer) (d : Nat) (dest : Option Nat) (st : DrawerState) : DrawerChange :=
  { drawer := d, dest := dest, before := r.dest, state := st, locked := r.locked, pile := some { count := 0, stack := 0 }
    cause := .collected }

section
variable {m : DrawerMap} {d : Nat}

/-- R125: a collected drawer that stays as it is. -/
theorem DrawerMap.collect_of_kept
    (h : (m.drawer d).state = .unassigned ∨ (m.drawer d).state = .open ∨
      ((m.drawer d).state = .closing ∧ (m.drawer d).awaited = true)) :
    m.collect d = (m.setDrawer d (m.drawer d).collected, []) := by
  unfold DrawerMap.collect
  rcases h with h | h | ⟨h, ha⟩
  · simp only [h, Drawer.collected]
  · simp only [h, Drawer.collected]
  · simp only [h, ha, if_true, Drawer.collected]

/-- R125: the map with a collected drawer `d` that becomes OPEN, and with one that is given up. -/
def DrawerMap.reopened (m : DrawerMap) (d : Nat) : DrawerMap := m.setDrawer d { (m.drawer d).collected with state := .open }

def DrawerMap.givenUp (m : DrawerMap) (d : Nat) : DrawerMap :=
  (m.setDrawer d { (m.drawer d).collected with dest := none, state := .unassigned }).rewriteNv d

theorem DrawerMap.change_reopened (ok : drawerOk d = true) :
    (m.reopened d).change d (m.drawer d).dest .collected = (m.drawer d).collectedChange d (m.drawer d).dest .open := by
  obtain ⟨here, -⟩ := m.written ok { (m.drawer d).collected with state := .open }
  rw [DrawerMap.change, show (m.reopened d).drawer d = _ from here]
  rfl

theorem DrawerMap.change_givenUp (ok : drawerOk d = true) :
    (m.givenUp d).change d (m.drawer d).dest .collected = (m.drawer d).collectedChange d none .unassigned := by
  obtain ⟨here, -⟩ := m.rewritten ok { (m.drawer d).collected with dest := none, state := .unassigned }
  rw [DrawerMap.change, show (m.givenUp d).drawer d = _ from here]
  rfl

/-- R125: a FULL drawer collected. -/
theorem DrawerMap.collect_of_full (ok : drawerOk d = true) (h : (m.drawer d).state = .full) :
    m.collect d =
      if (m.drawer d).locked = true then
        (((m.reopened d).closeOthers ((m.drawer d).dest.getD 0) d).1,
          (m.drawer d).collectedChange d (m.drawer d).dest .open :: ((m.reopened d).closeOthers ((m.drawer d).dest.getD 0) d).2)
      else if (m.openDrawer ((m.drawer d).dest.getD 0)).isSome = true then
        (m.givenUp d, [(m.drawer d).collectedChange d none .unassigned])
      else (m.reopened d, [(m.drawer d).collectedChange d (m.drawer d).dest .open]) := by
  rw [← DrawerMap.change_reopened ok, ← DrawerMap.change_givenUp ok]
  unfold DrawerMap.collect
  simp only [h]
  rfl

/-- R125: a CLOSING drawer that is not awaited is given up. -/
theorem DrawerMap.collect_of_closing (ok : drawerOk d = true) (h : (m.drawer d).state = .closing) (ha : (m.drawer d).awaited = false) :
    m.collect d = (m.givenUp d, [(m.drawer d).collectedChange d none .unassigned]) := by
  rw [← DrawerMap.change_givenUp ok]
  simp only [DrawerMap.collect, h, ha, Bool.false_eq_true, if_false, DrawerMap.givenUp, Drawer.collected]

end

/-- Settles O53: the drawer by its state, lock and awaited flag, and the one other OPEN drawer that is closed. -/
theorem collectedByDrawerState : Obligations.CollectedByDrawerState := by
  intro s d hbusy hh hd hwork p m r zero collects notice gone otherOpen
  have ok := drawerOk_iff.mpr hd
  have act {k : DrawerMap} {cs : List DrawerChange} (h : m.collect d = (k, cs)) (hroom : Busy cs.length s) :
      exec (.collected d) s = .next (({ s with part := { p.unidled with lines := p.lines.clearDrawer d, drawers := k } } : State).queued
        (cs.map .drawerChanged)) := by
    refine (if_pos ok).trans (congrArg Host.Outcome.next (State.act_raises ((Part.unlessHalted_of_ne (by exact hh) _).trans ?_)
      (Part.unidled_settled hbusy.settled) hbusy.sending (by simpa using hroom.room)))
    have worked := Part.AtWork.drawerAct (p := { p with lines := p.lines.clearDrawer d }) hwork hbusy.settled k cs
    refine ((congrArg (fun x => (Part.drawerAct { p with lines := p.lines.clearDrawer d } x).choiceCheck.examineIdle) h).trans
      worked).trans ?_
    unfold Part.unidled
    dsimp only
    split <;> rfl
  have none : Busy 0 s := ⟨hbusy.settled, hbusy.sending, by have := hbusy.room; omega⟩
  have kept (h : r.state = .unassigned ∨ r.state = .open ∨ (r.state = .closing ∧ r.awaited = true)) :
      collects { r with pile := zero } (m.nvOf d) [] :=
    ⟨_, act (DrawerMap.collect_of_kept h) none, m.written ok _⟩
  have givenUp (h : m.collect d = (m.givenUp d, [r.collectedChange d Option.none .unassigned])) : gone :=
    ⟨_, act h hbusy, m.rewritten ok _⟩
  have open_iff : (m.openDrawer (r.dest.getD 0)).isSome = true ↔ otherOpen := DrawerMap.openDrawer_isSome
  refine ⟨fun h => kept (h.imp_right .inl), fun h hno => ⟨_, act (cs := [r.collectedChange d r.dest .open]) ?_ hbusy, m.written ok _⟩,
    fun h hl ho => givenUp ?_, fun e hroom h hl hdest he honly => ?_, fun h ha => kept (.inr (.inr ⟨h, ha⟩)),
    fun h ha => givenUp (DrawerMap.collect_of_closing ok h ha)⟩
  · rw [DrawerMap.collect_of_full ok h]
    obtain ⟨-, -, others, -⟩ := m.written ok { r.collected with state := .open }
    have alone : (m.reopened d).closeOthers (r.dest.getD 0) d = (m.reopened d, []) :=
      DrawerMap.closeOthers_of_none fun c hc hne hs hdest => by
        rw [show (m.reopened d).drawer c = _ from (others c hne).1] at hs hdest
        exact hno ⟨c, hc.1, hc.2, hs, hdest⟩
    split
    · rw [show (m.reopened d).closeOthers ((m.drawer d).dest.getD 0) d = _ from alone]
      rfl
    · exact if_neg (mt open_iff.mp hno)
  · rw [DrawerMap.collect_of_full ok h, if_neg (by simpa using hl), if_pos (open_iff.mpr ho)]
  · intro x idle
    obtain ⟨dest, hdest⟩ := Option.isSome_iff_exists.mp hdest
    have differs (c : Nat) (hs : (m.drawer c).state = .open) : c ≠ d := by
      rintro rfl
      exact absurd (h.symm.trans hs) (by decide)
    have hne : e ≠ d := differs e ((honly e he).mpr rfl).1
    obtain ⟨here, copy, others, markers, tree⟩ := m.written ok { r.collected with state := .open }
    have read (c : Nat) (hc : c ≠ d) : (m.reopened d).drawer c = m.drawer c := (others c hc).1
    have closes : (m.reopened d).closeOthers (r.dest.getD 0) d = (m.reopened d).close e := by
      refine DrawerMap.closeOthers_of_one he fun c hc => ?_
      rw [← honly c hc, hdest, Option.getD_some]
      constructor
      · rintro ⟨hcd, hs⟩
        rwa [read c hcd] at hs
      · intro hs
        have hcd := differs c hs.1
        exact ⟨hcd, by rwa [read c hcd]⟩
    obtain ⟨changes, isIdle, isBusy, rest, markers', tree'⟩ := (m.reopened d).close_spec (drawerOk_iff.mpr he)
    rw [read e hne] at changes isIdle isBusy
    have before : x.dest = r.dest := ((honly e he).mpr rfl).2
    rw [before] at changes
    have collected : m.collect d = (((m.reopened d).close e).1, r.collectedChange d r.dest .open :: ((m.reopened d).close e).2) := by
      rw [DrawerMap.collect_of_full ok h, if_pos hl, show (m.reopened d).closeOthers ((m.drawer d).dest.getD 0) d = _ from closes]
    rw [changes] at collected
    refine ⟨((m.reopened d).close e).1, act collected hroom, ?_, ?_, isIdle, fun hbusy' => ?_, fun c hcd hce => ?_, ?_, ?_⟩
    · exact ((rest d (Ne.symm hne)).1).trans here
    · exact ((rest d (Ne.symm hne)).2).trans copy
    · exact ⟨(isBusy hbusy').1, (isBusy hbusy').2.trans (others e hne).2⟩
    · exact ⟨((rest c hce).1).trans (read c hcd), ((rest c hce).2).trans (others c hcd).2⟩
    · exact markers'.trans markers
    · exact tree'.trans tree

end Sys2Proof.Machine
end

section
/-! The resolution of a destination to a drawer (R120 to R123). -/

namespace Sys2Proof.Machine

/-! ## O54: resolution -/

/-- R116: a drawer OPEN for a destination. -/
def DrawerMap.OpenFor (m : DrawerMap) (dest c : Nat) : Prop :=
  1 ≤ c ∧ c ≤ 20 ∧ (m.drawer c).state = .open ∧ (m.drawer c).dest = some dest

/-- R120 step 1: the OPEN drawer that a resolution looks at first. -/
def DrawerMap.found (m : DrawerMap) (dest : Nat) : Option Nat := (m.lockedOpen dest).or (m.openDrawer dest)

/-- R121, R122: the drawer that allocation takes. -/
def DrawerMap.choice (m : DrawerMap) (dest : Nat) : Option Nat := (m.rowChoice dest).or (m.flexChoice dest)

theorem DrawerMap.openFor_of_found {m : DrawerMap} {dest e : Nat} (h : m.found dest = some e) : m.OpenFor dest e := by
  rcases Option.or_eq_some_iff.mp h with h | ⟨-, h⟩
  · have facts := List.find?_some h
    have place := List.mem_of_find?_eq_some h
    simp only [Bool.and_eq_true, beq_iff_eq] at facts
    obtain ⟨⟨⟨-, hdest⟩, hopen⟩, -⟩ := facts
    have range : 1 ≤ e ∧ e ≤ 20 := by
      simp only [flexibleDrawers, List.mem_cons, List.not_mem_nil, or_false] at place
      omega
    exact ⟨range.1, range.2, hopen, hdest⟩
  · have facts := List.find?_some h
    have range := mem_allDrawers.mp (List.mem_of_find?_eq_some h)
    simp only [Bool.and_eq_true, beq_iff_eq] at facts
    exact ⟨range.1, range.2, facts.1, facts.2⟩

theorem DrawerMap.not_openFor_of_found {m : DrawerMap} {dest : Nat} (h : m.found dest = none) (c : Nat) : ¬ m.OpenFor dest c := by
  rintro ⟨h1, h2, h3, h4⟩
  have none := (Option.or_eq_none_iff.mp h).2
  have some := DrawerMap.openDrawer_isSome.mpr ⟨c, h1, h2, h3, h4⟩
  simp [none] at some

theorem DrawerMap.found_of_only {m : DrawerMap} {dest f : Nat} (h : ∀ c, m.OpenFor dest c ↔ c = f) : m.found dest = some f := by
  cases hf : m.found dest with
  | none => exact absurd ((h f).mpr rfl) (DrawerMap.not_openFor_of_found hf f)
  | some e => rw [(h e).mp (DrawerMap.openFor_of_found hf)]

theorem DrawerMap.found_of_none {m : DrawerMap} {dest : Nat} (h : ∀ c, ¬ m.OpenFor dest c) : m.found dest = none := by
  cases hf : m.found dest with
  | none => rfl
  | some e => exact absurd (DrawerMap.openFor_of_found hf) (h e)

/-- R120: a resolution by the OPEN drawer found. -/
theorem DrawerMap.resolve_of_found {m : DrawerMap} {dest t f : Nat} (h : m.found dest = some f) :
    m.resolve dest t =
      if pileAccepts (m.drawer f).pile t = true then { map := m, changes := [], place := .drawer f }
      else (m.makeFull f).1.allocate dest (m.makeFull f).2 := by
  unfold DrawerMap.found at h
  simp only [DrawerMap.resolve, h]

theorem DrawerMap.resolve_of_none {m : DrawerMap} {dest t : Nat} (h : m.found dest = none) :
    m.resolve dest t = m.allocate dest [] := by
  unfold DrawerMap.found at h
  simp only [DrawerMap.resolve, h]

theorem pileAccepts_iff {p : Option Pile} {t : Nat} :
    pileAccepts p t = true ↔ ∃ q, p = some q ∧ q.count + 1 ≤ 20 ∧ q.stack + t ≤ 40000 := by
  cases p with
  | none => simp [pileAccepts]
  | some q =>
    simp only [pileAccepts, Bool.and_eq_true, decide_eq_true_iff, Option.some.injEq, exists_eq_left']
    rfl

/-- R120: the drawer that becomes FULL; allocation chooses from the others as before. -/
theorem DrawerMap.makeFull_spec {m : DrawerMap} {dest f : Nat} (h : m.OpenFor dest f) :
    let k := (m.makeFull f).1
    (m.makeFull f).2 = [{ drawer := f, dest := some dest, before := some dest, state := .full, locked := (m.drawer f).locked
                          pile := (m.drawer f).pile, cause := .full }] ∧
    (∀ c, k.drawer c = if f = c then { m.drawer c with state := .full } else m.drawer c) ∧
    k.nv = m.nv ∧ k.markers = m.markers ∧ k.tree = m.tree ∧ k.choice dest = m.choice dest := by
  intro k
  obtain ⟨h1, h2, hopen, hdest⟩ := h
  have ok := drawerOk_iff.mpr ⟨h1, h2⟩
  have read (c : Nat) : k.drawer c = if f = c then { m.drawer c with state := .full } else m.drawer c := by
    refine (DrawerMap.drawer_setDrawer ..).trans ?_
    by_cases hc : f = c
    · subst hc
      simp [ok]
    · simp [hc, Ne.symm hc]
  have markers : k.markers = m.markers := DrawerMap.setDrawer_markers ..
  have tree : k.tree = m.tree := DrawerMap.setDrawer_tree ..
  have vacant : k.vacant = m.vacant := by
    funext c
    by_cases hc : f = c
    · subst hc
      simp only [DrawerMap.vacant, read, hopen, if_true]
      rfl
    · simp [DrawerMap.vacant, read, hc]
  have takable : k.takable dest = m.takable dest := by
    funext c
    by_cases hc : f = c
    · subst hc
      simp [DrawerMap.takable, read, hdest]
    · simp [DrawerMap.takable, read, hc]
  have locked (c : Nat) : (k.drawer c).locked = (m.drawer c).locked := by
    rw [read]
    split <;> rfl
  refine ⟨?_, read, DrawerMap.setDrawer_nv .., markers, tree, ?_⟩
  · have made : (m.makeFull f).2 = [k.change f (m.drawer f).dest .full] := rfl
    rw [made, DrawerMap.change, read, if_pos rfl, hdest]
  · simp only [DrawerMap.choice, DrawerMap.rowChoice_congr vacant takable markers,
      DrawerMap.flexChoice_congr vacant takable tree locked]

/-- R121, R122: the drawer that allocation takes is vacant, or an empty OPEN one of another destination, of the row or flexible and
not locked. -/
theorem DrawerMap.choice_spec {m : DrawerMap} {dest d : Nat} (h : m.choice dest = some d) :
    (1 ≤ d ∧ d ≤ 20) ∧ (m.vacant d = true ∨ m.takable dest d = true) ∧
      (d = 2 * (dest % 8) + 1 ∨ d = 2 * (dest % 8) + 2 ∨ (17 ≤ d ∧ d ≤ 20 ∧ (m.drawer d).locked = false)) := by
  rcases Option.or_eq_some_iff.mp h with h | ⟨-, h⟩
  · rcases (m.rowChoice_eq_some dest d).mp h with ⟨rfl, hv⟩ | ⟨rfl, hv, -⟩ | ⟨-, -, ⟨rfl, ht, -⟩ | ⟨rfl, ht, -⟩⟩
    · exact ⟨by omega, .inl hv, .inl rfl⟩
    · exact ⟨by omega, .inl hv, .inr (.inl rfl)⟩
    · exact ⟨by omega, .inr ht, .inl rfl⟩
    · exact ⟨by omega, .inr ht, .inr (.inl rfl)⟩
  · rcases (m.flexChoice_eq_some dest d).mp h with ⟨hu, hv, -⟩ | ⟨-, hu, ht, -⟩
    · exact ⟨⟨by omega, hu.2.1⟩, .inl hv, .inr (.inr hu)⟩
    · exact ⟨⟨by omega, hu.2.1⟩, .inr ht, .inr (.inr hu)⟩

/-- R121: an allocated drawer was not OPEN for the destination. -/
theorem DrawerMap.not_openFor_of_choice {m : DrawerMap} {dest d : Nat} (h : m.vacant d = true ∨ m.takable dest d = true) :
    ¬ m.OpenFor dest d := by
  rintro ⟨-, -, hopen, hdest⟩
  rcases h with h | h
  · rw [DrawerMap.vacant_iff, hopen] at h
    exact absurd h.1 (by decide)
  · exact ((m.takable_iff ..).mp h).2.1 hdest

/-- R120 step 3: allocation. -/
theorem DrawerMap.allocate_of_choice {m : DrawerMap} {dest d : Nat} (cs : List DrawerChange) (h : m.choice dest = some d) :
    m.allocate dest cs = { map := (m.allocateTo d dest).1, changes := cs ++ (m.allocateTo d dest).2, place := .drawer d } := by
  unfold DrawerMap.choice at h
  simp only [DrawerMap.allocate, h]

theorem DrawerMap.allocate_of_none {m : DrawerMap} {dest : Nat} (cs : List DrawerChange) (h : m.choice dest = none) :
    m.allocate dest cs = { map := m, changes := cs, place := .overflow } := by
  unfold DrawerMap.choice at h
  simp only [DrawerMap.allocate, h]

/-- Settles O54: the resolution by the OPEN drawer found, and the allocation on the map with a drawer made FULL or as it was. -/
theorem resolutionEndsAtAnOpenDrawer : Obligations.ResolutionEndsAtAnOpenDrawer := by
  intro m dest t row isOpen accepts vacant takable way1 way2 fromRow rowGives unlocked named samePair fromFlexible flexibleGives
    allocates
  have choice_some (d : Nat) (h : fromRow d ∨ (¬ rowGives ∧ fromFlexible d)) : m.choice dest = some d := by
    have rowGives_iff := m.rowChoice_eq_none dest
    have row_iff := m.rowChoice_eq_some dest d
    have flex_iff := m.flexChoice_eq_some dest d
    simp only [DrawerMap.vacant_iff, DrawerMap.takable_iff] at rowGives_iff row_iff flex_iff
    refine Option.or_eq_some_iff.mpr ?_
    rcases h with h | ⟨hno, h⟩
    · exact .inl (row_iff.mpr h)
    · exact .inr ⟨rowGives_iff.mpr hno, flex_iff.mpr h⟩
  have choice_none (h : ¬ rowGives) (h' : ¬ flexibleGives) : m.choice dest = none := by
    have rowGives_iff := m.rowChoice_eq_none dest
    have flex_iff := m.flexChoice_eq_none dest
    simp only [DrawerMap.vacant_iff, DrawerMap.takable_iff] at rowGives_iff flex_iff
    exact Option.or_eq_none_iff.mpr ⟨rowGives_iff.mpr h, flex_iff.mpr h'⟩
  -- allocation on a map that differs in the drawer made FULL alone
  have allocated {full : Option Nat} {k : DrawerMap} (hfull : ∀ f, full = some f → isOpen f)
      (hres : m.resolve dest t = k.allocate dest (full.toList.map fun c =>
        { drawer := c, dest := some dest, before := some dest, state := .full, locked := (m.drawer c).locked
          pile := (m.drawer c).pile, cause := .full }))
      (read : ∀ c, k.drawer c = if full = some c then { m.drawer c with state := .full } else m.drawer c) (nv : k.nv = m.nv)
      (markers : k.markers = m.markers) (tree : k.tree = m.tree) (choice : k.choice dest = m.choice dest) : allocates full := by
    refine ⟨fun d hd => ?_, fun h h' => ?_⟩
    · have chosen := choice_some d hd
      obtain ⟨hrange, hkind, hplace⟩ := DrawerMap.choice_spec chosen
      have other : full ≠ some d := fun h => DrawerMap.not_openFor_of_choice hkind (hfull d h)
      have same : k.drawer d = m.drawer d := (read d).trans (if_neg other)
      obtain ⟨notice, here, copy, others, rowed, flexed⟩ := k.allocateTo_spec d dest hrange
      rw [same] at notice here copy
      refine ⟨(k.allocateTo d dest).1, ?_, here, copy, fun c hc => ?_, fun h => ?_, fun h => ?_⟩
      · rw [hres, DrawerMap.allocate_of_choice _ (choice.trans chosen), notice]
      · exact ⟨(others c hc).1.trans (read c), (others c hc).2.trans (DrawerMap.nvOf_congr nv c)⟩
      · obtain ⟨htree, hmarker, hrest⟩ := rowed h
        have rows : (d - 1) / 2 = row ∧ (if d % 2 = 1 then Way.one else .two) = if d = way1 then .one else .two := by
          have parity : d % 2 = 1 ↔ d = way1 := by omega
          simp only [parity, and_true]
          omega
        rw [rows.1] at hmarker hrest
        rw [rows.2] at hmarker
        exact ⟨htree.trans tree, hmarker, fun r hr => (hrest r hr).trans (DrawerMap.marker_congr markers r)⟩
      · obtain ⟨hmarkers, htree⟩ := flexed h
        rw [tree] at htree
        exact ⟨hmarkers.trans markers, htree⟩
    · exact ⟨k, by rw [hres, DrawerMap.allocate_of_none _ (choice.trans (choice_none h h'))], read, nv, markers, tree⟩
  refine ⟨fun d hplace => ?_, fun f hf ha => ?_, fun f hf ha => ?_, fun h => ?_⟩
  · -- an allocation on a map in which no drawer but one made FULL has moved
    have taken {k : DrawerMap} {cs : List DrawerChange} (hres : m.resolve dest t = k.allocate dest cs)
        (choice : k.choice dest = m.choice dest) (read : ∀ c, ¬ m.OpenFor dest c → k.drawer c = m.drawer c) :
        let k := (m.resolve dest t).map
        1 ≤ d ∧ d ≤ 20 ∧ (k.drawer d).state = .open ∧ (k.drawer d).dest = some dest ∧ (k.drawer d).pile.isSome = true ∧
        (isOpen d → k = m ∧ accepts d) ∧ (¬ isOpen d → d = way1 ∨ d = way2 ∨ unlocked d) ∧
        (¬ isOpen d → vacant d ∨ takable d) := by
      cases hc : m.choice dest with
      | none =>
        rw [hres, DrawerMap.allocate_of_none _ (choice.trans hc)] at hplace
        cases hplace
      | some e =>
        rw [hres, DrawerMap.allocate_of_choice _ (choice.trans hc)] at hplace ⊢
        obtain rfl : e = d := Place.drawer.inj hplace
        obtain ⟨hrange, hkind, hway⟩ := DrawerMap.choice_spec hc
        have closed := DrawerMap.not_openFor_of_choice hkind
        obtain ⟨-, here, -⟩ := k.allocateTo_spec e dest hrange
        rw [read e closed] at here
        simp only [DrawerMap.vacant_iff, DrawerMap.takable_iff] at hkind
        have known : (m.drawer e).pile.isSome = true := by
          rcases hkind with h | h
          · exact h.2
          · cases hp : (m.drawer e).pile with
            | none => simp [hp] at h
            | some q => rfl
        exact ⟨hrange.1, hrange.2, by rw [here], by rw [here], by rw [here]; exact known, fun h => absurd h closed,
          fun _ => hway, fun _ => hkind⟩
    cases hf : m.found dest with
    | none => exact taken (DrawerMap.resolve_of_none hf) rfl fun _ _ => rfl
    | some f =>
      have openFor := DrawerMap.openFor_of_found hf
      have found := DrawerMap.resolve_of_found (t := t) hf
      by_cases ha : pileAccepts (m.drawer f).pile t = true
      · rw [if_pos ha] at found
        rw [found] at hplace ⊢
        obtain rfl : f = d := Place.drawer.inj hplace
        obtain ⟨h1, h2, h3, h4⟩ := openFor
        have hq := pileAccepts_iff.mp ha
        have known : (m.drawer f).pile.isSome = true := by
          obtain ⟨q, hq, -⟩ := hq
          rw [hq]
          rfl
        exact ⟨h1, h2, h3, h4, known, fun _ => ⟨rfl, hq⟩, fun h => absurd ⟨h1, h2, h3, h4⟩ h, fun h => absurd ⟨h1, h2, h3, h4⟩ h⟩
      · rw [if_neg ha] at found
        obtain ⟨-, read, -, -, -, choice⟩ := DrawerMap.makeFull_spec openFor
        refine taken found choice fun c hc => (read c).trans (if_neg ?_)
        rintro rfl
        exact hc openFor
  · rw [DrawerMap.resolve_of_found (DrawerMap.found_of_only hf), if_pos (pileAccepts_iff.mpr ha)]
  · have openFor : m.OpenFor dest f := (hf f).mpr rfl
    obtain ⟨notice, read, nv, markers, tree, choice⟩ := DrawerMap.makeFull_spec openFor
    refine allocated (k := (m.makeFull f).1) (fun e he => Option.some.inj he ▸ openFor) ?_ (fun c => ?_) nv markers tree choice
    · rw [DrawerMap.resolve_of_found (DrawerMap.found_of_only hf), if_neg (mt pileAccepts_iff.mp ha), notice]
      rfl
    · rw [read]
      simp only [Option.some.injEq]
  · refine allocated (k := m) (fun _ => nofun) ?_ (fun c => (if_neg nofun).symm) rfl rfl rfl rfl
    rw [DrawerMap.resolve_of_none (DrawerMap.found_of_none h)]
    rfl

end Sys2Proof.Machine
end

section
/-! Stitch cycles: their start, their end, and the take check (R88 to R92, R97). -/

namespace Sys2Proof.Machine

/-! ## O43: the end of a stitch cycle -/

/-- R88: with no set waiting for its stitches in AUTOMATIC there is none to take. -/
theorem Part.takeCheck_of_waiting {p : Part} (hq : p.ctl.mode = .automatic → p.carriage.queue = []) : p.takeCheck = p := by
  by_cases hm : p.ctl.mode = .automatic
  · exact Part.takeCheck_of_empty (hq hm)
  · exact Part.takeCheck_of_not fun h => absurd h hm

theorem Part.setBinState_of {p : Part} {b : Nat} (st : BinState) {r : Bin} (hr : p.bin b = r) :
    p.setBinState b st = p.setBin b { r with state := st } := by
  unfold Part.setBinState
  rw [hr]

/-- R65, R102: outside PARKED a bin that joins the eject queue wakes nothing. -/
theorem Part.joinEject_of {p : Part} (b : Nat) (hm : p.ctl.mode ≠ .parked) : p.joinEject b = (p.appendEject b).choiceCheck := by
  unfold Part.joinEject
  rw [Part.wake_of_ne (by exact hm)]

/-- R92: the set in bin `b` handed on, before the checks that follow. -/
def Part.handedOn (p : Part) (b : Nat) : Part :=
  { p.setBin b { p.bin b with state := .ejectWait } with
    carriage := { p.carriage with state := .idle, position := .bin b, held := none, target := none, deadline := none }
    conv := { p.conv with queue := p.conv.queue ++ [{ bin := b, placeable := none }] } }

/-- R92: a finished set is handed on. -/
theorem Part.handOn_eq {p : Part} {b : Nat} (hb : 1 ≤ b ∧ b ≤ 48) (hm : p.ctl.mode ≠ .parked) :
    p.handOn b = (p.handedOn b).choiceCheck.takeCheck := by
  let q : Part := { p with carriage := { p.carriage with
    state := .idle, position := .bin b, held := none, target := none, deadline := none } }
  have written : q.setBinState b .ejectWait = q.setBin b { p.bin b with state := .ejectWait } := rfl
  have hands : p.handOn b = ((q.setBinState b .ejectWait).joinEject b).takeCheck := rfl
  have queued : (q.setBin b { p.bin b with state := .ejectWait }).appendEject b = p.handedOn b := by
    simp only [Part.appendEject, Part.handedOn, q, Part.setBin_of hb]
  rw [hands, written, Part.joinEject_of _ (by simpa [q] using hm), queued]

/-- Settles O43: the finished set handed on, and the cycle interrupted in SERVICE. -/
theorem stitchDoneEndsTheSet : Obligations.StitchDoneEndsTheSet := by
  intro s h hsettled hh hb hhalt hpark hrest p set
  have held : p.carriage.held = some h := hh
  have act {q : Part} (e : p.onStitchDone = q) (hq : q.Settled) : exec .stitchDone s = .next { s with part := q } :=
    congrArg Host.Outcome.next (State.act_of ((Part.unlessHalted_of_ne (by exact hhalt) _).trans e) hq)
  refine ⟨fun hc hdone => act ?_ ?_, fun hc hshort hm => act ?_ hsettled, fun hc => act ?_ hsettled⟩
  · have moved : p.onStitchDone = (p.handOn h.bin).examineIdle := by
      simp only [Part.onStitchDone, hc, held]
      exact if_pos hdone
    have mode : (p.handedOn h.bin).ctl = p.ctl := by simp [Part.handedOn]
    have queue : (p.handedOn h.bin).carriage.queue = p.carriage.queue := rfl
    have conveyor : (p.handedOn h.bin).conv.state = p.conv.state := rfl
    rw [moved, Part.handOn_eq hb hpark, Part.choiceCheck_of_not (by rw [mode, conveyor]; exact fun hm => (hrest hm).2),
      Part.takeCheck_of_waiting (by rw [mode, queue]; exact fun hm => (hrest hm).1),
      Part.examineIdle_of_not fun _ hi => by simpa [Part.handedOn] using hi.ejects]
    simp only [Part.handedOn, Part.setBin_of hb]
    unfold Part.unidled
    dsimp only
    split <;> rfl
  · simpa [Part.Settled] using hsettled
  · simp only [Part.onStitchDone, hc, held]
    exact (if_neg (Nat.not_le.mpr hshort)).trans (if_pos hm)
  · unfold Part.onStitchDone
    split
    · exact absurd ‹_› hc
    · rfl

/-! ## O42: the start of a stitch cycle -/

/-- `q` is `p` but for flags of the attention set and notices. -/
def Part.Latched (p q : Part) : Prop :=
  ∃ (f : FaultBlock) (o : Out), o.reset = p.out.reset ∧ q = { p with faults := p.faults.sameRecord f, out := o }

theorem Part.Latched.trans {p q r : Part} (h : p.Latched q) (k : q.Latched r) : p.Latched r := by
  obtain ⟨f, o, reset, rfl⟩ := h
  obtain ⟨g, u, reset', rfl⟩ := k
  exact ⟨g, u, reset'.trans reset, rfl⟩

theorem Part.latchIf_latched (p : Part) (b : Bool) (c : Condition) : p.Latched (p.latchIf b c) := by
  have same : p.latchIf b c = { p with faults := p.faults.sameRecord (p.latchIf b c).faults, out := (p.latchIf b c).out } ∧
      (p.latchIf b c).out.reset = p.out.reset := by
    unfold Part.latchIf Part.latch
    dsimp only
    (repeat' split) <;> exact ⟨rfl, rfl⟩
  exact ⟨_, _, same.2, same.1⟩

theorem Part.Latched.unidled {p q : Part} (h : p.Latched q) : p.unidled.Latched q.unidled := by
  obtain ⟨f, o, reset, rfl⟩ := h
  refine ⟨f, o, by simpa using reset, ?_⟩
  by_cases hm : p.ctl.mode = .automatic <;> simp [Part.unidled, hm]

/-- R95, R96: a wire length latches WIRE_LOW and WIRE_OUT at most. -/
theorem Part.setWire_latched (p : Part) (w : Nat) : Part.Latched { p with carriage := { p.carriage with wire := w } } (p.setWire w) :=
  (Part.latchIf_latched ..).trans (Part.latchIf_latched ..)

/-- An act that latches conditions at most. -/
theorem State.act_latched {s : State} {f : Part → Part} {q : Part} (h : q.Latched (f s.part)) (hq : q.Settled) :
    (s.act f).pending = s.pending ∧ (s.act f).part = { q with faults := q.faults.sameRecord (s.act f).part.faults } := by
  have silent : q.out = { reset := false, notices := [] } := hq
  obtain ⟨g, o, reset, e⟩ := h
  obtain ⟨pending, -, -, part⟩ := State.act_part (s := s) (f := f) (by rw [e]; exact reset.trans (congrArg Out.reset hq))
  refine ⟨pending, part.trans ?_⟩
  rw [e, silent]
  rfl

/-- R91: the part with the cycle of the set in bin `b` started. -/
def Part.cycling (p : Part) (b : Nat) : Part :=
  { p.setBin b { p.bin b with set := { (p.bin b).set with made := (p.bin b).set.made + 1 } } with
    carriage := { p.carriage with
      state := .stitching, position := .bin b, target := none, deadline := some (p.now + 800)
      wire := p.carriage.wire - (12 + (p.bin b).set.planned.h) } }

/-- R91: with enough wire the cycle starts. -/
theorem Part.startCycle_of_enough {p : Part} {b : Nat} (hb : 1 ≤ b ∧ b ≤ 48) (h : 12 + (p.bin b).set.planned.h ≤ p.carriage.wire) :
    p.startCycle b = Part.setWire
      { p.cycling b with carriage := { (p.cycling b).carriage with wire := p.carriage.wire } }
      (p.carriage.wire - (12 + (p.bin b).set.planned.h)) := by
  refine (if_pos (by exact h)).trans ?_
  simp only [Part.modSet, Part.cycling, Part.setBin_of hb]
  rfl

/-- R91: the cycle that starts, with the checks after it. -/
theorem Part.startCycle_checked {p : Part} {b : Nat} (hb : 1 ≤ b ∧ b ≤ 48) (h : 12 + (p.bin b).set.planned.h ≤ p.carriage.wire) :
    (p.cycling b).unidled.Latched (p.startCycle b).takeCheck.examineIdle := by
  have latched : (p.cycling b).Latched (p.startCycle b) := by
    rw [Part.startCycle_of_enough hb h]
    exact Part.setWire_latched
      { p.cycling b with carriage := { (p.cycling b).carriage with wire := p.carriage.wire } } _
  have carriage : (p.startCycle b).carriage = (p.cycling b).carriage := by
    obtain ⟨f, o, -, e⟩ := latched
    rw [e]
  rw [Part.takeCheck_of_not fun _ => by rw [carriage]; exact nofun, Part.examineIdle_of_not fun _ hi => ?_]
  · exact latched.unidled
  · have := hi.carriage
    rw [carriage] at this
    cases this

theorem Part.set_setBinState (p : Part) (b : Nat) (st : BinState) (c : Nat) : ((p.setBinState b st).bin c).set = (p.bin c).set := by
  rw [Part.bin_setBinState]
  split
  · next h => rw [h.1]
  · rfl

theorem Part.priorityOf_congr {p q : Part} (hj : q.jobs = p.jobs) {b : Nat} (hb : (q.bin b).set.job = (p.bin b).set.job) :
    q.priorityOf b = p.priorityOf b := by
  have table : q.job? = p.job? := by
    funext n
    simp only [Part.job?, hj]
  simp only [Part.priorityOf, Part.binJob, table, hb]

theorem Part.wireRuleOf_congr {p q : Part} (hj : q.jobs = p.jobs) {b : Nat} (hb : (q.bin b).set.job = (p.bin b).set.job) :
    q.wireRuleOf b = p.wireRuleOf b := by
  have table : q.job? = p.job? := by
    funext n
    simp only [Part.job?, hj]
  simp only [Part.wireRuleOf, Part.binJob, table, hb]

/-- R86: the place of a bin that the carriage returns, urgent bins `us` before the others `ns`. -/
theorem Part.insertHead_eq {p : Part} {us ns : List Nat} (b : Nat) (hq : p.carriage.queue = us ++ ns)
    (hus : ∀ c ∈ us, p.priorityOf c = .urgent) (hns : ∀ c ∈ ns, p.priorityOf c = .normal) :
    p.insertHead b = { p with carriage := { p.carriage with
      queue := if p.priorityOf b = .urgent then b :: (us ++ ns) else us ++ b :: ns } } := by
  have urgents : (us ++ ns).filter (fun b => p.priorityOf b == .urgent) = us := by
    rw [List.filter_append, List.filter_eq_self.mpr fun c hc => by simp [hus c hc],
      List.filter_eq_nil_iff.mpr fun c hc => by simp [hns c hc], List.append_nil]
  have normals : (us ++ ns).filter (fun b => p.priorityOf b != .urgent) = ns := by
    rw [List.filter_append, List.filter_eq_nil_iff.mpr fun c hc => by simp [hus c hc],
      List.filter_eq_self.mpr fun c hc => by simp [hns c hc], List.nil_append]
  simp only [Part.insertHead, Part.stitchClasses, hq, urgents, normals, List.cons_append]

/-- R88, R89: with too little wire for every set of the queue, none of a job that goes unstitched, the take check does nothing. -/
theorem Part.takeCheck_of_stuck {p : Part}
    (h : p.ctl.mode = .automatic → ∀ c ∈ p.carriage.queue, p.carriage.wire < (p.bin c).set.need ∧ p.wireRuleOf c = .wait) :
    p.takeCheck = p := by
  by_cases hm : p.ctl.mode = .automatic
  · have none : p.carriage.queue.find? (fun b => (p.bin b).set.need ≤ p.carriage.wire) = none :=
      List.find?_eq_none.mpr fun c hc => by simpa using (h hm c hc).1
    have wait : p.carriage.queue.find? (fun b => p.wireRuleOf b == .unstitched) = Option.none :=
      List.find?_eq_none.mpr fun c hc => by simp [(h hm c hc).2]
    simp only [Part.takeCheck, Part.takeCheckN, none, wait, ite_self]
  · exact Part.takeCheck_of_not fun h => absurd h hm

theorem Part.latchIf_of_has {p : Part} (b : Bool) {c : Condition} (h : hasCondition p.faults.attention c = true) : p.latchIf b c = p := by
  unfold Part.latchIf
  rw [Part.latch_of_has h]
  exact ite_self _

/-- R91: with less wire than a stitch takes, WIRE_OUT latched before, the set goes back to the stitch queue. -/
theorem Part.startCycle_of_short {p : Part} {b : Nat} {us ns : List Nat} (hb : 1 ≤ b ∧ b ≤ 48)
    (h : p.carriage.wire < 12 + (p.bin b).set.planned.h) (hout : hasCondition p.faults.attention .wireOut = true)
    (hq : p.carriage.queue = us ++ ns) (hus : ∀ c ∈ us, p.priorityOf c = .urgent) (hns : ∀ c ∈ ns, p.priorityOf c = .normal) :
    p.startCycle b = { p.setBin b { p.bin b with state := .stitchWait } with carriage := { p.carriage with
      state := .idle, position := .bin b, held := none, target := none, deadline := none
      queue := if p.priorityOf b = .urgent then b :: (us ++ ns) else us ++ b :: ns } } := by
  let q : Part := { p.setBinState b .stitchWait with carriage := { p.carriage with
    state := .idle, position := .bin b, held := none, target := none, deadline := none } }
  have priority (c : Nat) : q.priorityOf c = p.priorityOf c :=
    Part.priorityOf_congr (by simp [q, Part.setBinState]) (congrArg SetRecord.job (Part.set_setBinState ..))
  have returns : p.startCycle b = (q.insertHead b).latchWireOut q.wireOutLevel := by
    have short : ¬ stitchWire (p.bin b).set.planned.h ≤ p.carriage.wire := Nat.not_le.mpr h
    simp only [Part.startCycle, if_neg short, q, Part.setBinState, Part.setBin_of hb]
  rw [returns, Part.insertHead_eq b (by exact hq) (fun c hc => (priority c).trans (hus c hc)) fun c hc => (priority c).trans (hns c hc),
    priority]
  have faults : q.faults = p.faults := by simp [q, Part.setBinState]
  refine (Part.latchIf_of_has _ (by rw [faults]; exact hout)).trans ?_
  simp only [q, Part.setBinState]

/-- R91: the set that goes back, with the checks after it. -/
theorem Part.startCycle_returns {p : Part} {b : Nat} {us ns : List Nat} (hb : 1 ≤ b ∧ b ≤ 48)
    (h : p.carriage.wire < 12 + (p.bin b).set.planned.h) (hout : hasCondition p.faults.attention .wireOut = true)
    (hq : p.carriage.queue = us ++ ns) (hus : ∀ c ∈ us, p.priorityOf c = .urgent) (hns : ∀ c ∈ ns, p.priorityOf c = .normal)
    (hstuck : p.ctl.mode = .automatic →
      ∀ c ∈ b :: p.carriage.queue, p.carriage.wire < (p.bin c).set.need ∧ p.wireRuleOf c = .wait) :
    (p.startCycle b).takeCheck.examineIdle = { p.setBin b { p.bin b with state := .stitchWait } with
      ctl := p.unidled.ctl
      carriage := { p.carriage with
        state := .idle, position := .bin b, held := none, target := none, deadline := none
        queue := if p.priorityOf b = .urgent then b :: (us ++ ns) else us ++ b :: ns } } := by
  let q : Part := { p.setBin b { p.bin b with state := .stitchWait } with carriage := { p.carriage with
    state := .idle, position := .bin b, held := none, target := none, deadline := none
    queue := if p.priorityOf b = .urgent then b :: (us ++ ns) else us ++ b :: ns } }
  have returned : p.startCycle b = q := Part.startCycle_of_short hb h hout hq hus hns
  have sameSet (c : Nat) : (q.bin c).set = (p.bin c).set := p.set_setBinState b .stitchWait c
  have members (c : Nat) (hc : c ∈ q.carriage.queue) : c ∈ b :: p.carriage.queue := by
    rw [hq]
    simp only [q] at hc
    split at hc
    · exact hc
    · exact List.perm_middle.mem_iff.mp hc
  have mode : q.ctl = p.ctl := by simp [q]
  have stuck : q.takeCheck = q := by
    refine Part.takeCheck_of_stuck fun hm c hc => ?_
    rw [sameSet, Part.wireRuleOf_congr (p := p) (by simp [q]) (congrArg SetRecord.job (sameSet c))]
    exact hstuck (by rwa [← mode]) c (members c hc)
  rw [returned, stuck, Part.examineIdle_of_not fun _ hi => ?_]
  · simp only [q, Part.setBin_of hb]
    unfold Part.unidled
    dsimp only
    split <;> rfl
  · have nonempty : q.carriage.queue ≠ [] := by
      simp only [q]
      split <;> simp
    exact nonempty hi.stitches

/-- R88: the take check takes the first set that the wire is enough for, and no more while the carriage is at work. -/
theorem Part.takeCheck_of_first {p : Part} {b : Nat} {pre post : List Nat} (hm : p.ctl.mode = .automatic)
    (hc : p.carriage.state = .idle) (hq : p.carriage.queue = pre ++ b :: post)
    (hpre : ∀ d ∈ pre, p.carriage.wire < (p.bin d).set.need) (hb : (p.bin b).set.need ≤ p.carriage.wire)
    (hwork : (p.take b).carriage.state ≠ .idle) : p.takeCheck = p.take b := by
  have first : p.carriage.queue.find? (fun b => (p.bin b).set.need ≤ p.carriage.wire) = some b := by
    rw [hq, List.find?_append, List.find?_eq_none.mpr fun d hd => by simpa using hpre d hd]
    simp [hb]
  have again : Part.takeCheckN (p.carriage.queue.length + 1) (p.take b) = p.take b := by
    simp only [Part.takeCheckN]
    exact if_neg fun h => hwork h.1
  rw [Part.takeCheck]
  simp only [Part.takeCheckN, hc, hm, and_self, if_true, first]
  exact again

/-- R95: a wire length below both marks that are latched already. -/
theorem Part.setWire_of_latched {p : Part} (w : Nat) (hlow : hasCondition p.faults.attention .wireLow = true)
    (hout : hasCondition p.faults.attention .wireOut = true) :
    p.setWire w = { p with carriage := { p.carriage with wire := w } } := by
  unfold Part.setWire Part.latchWireOut
  dsimp only
  rw [Part.latchIf_of_has (c := .wireLow) _ (by exact hlow), Part.latchIf_of_has (c := .wireOut) _ (by exact hout)]

/-- R88, R90: a set taken at another bin: the carriage travels. -/
theorem Part.take_of_away {p : Part} {b : Nat} (hb : 1 ≤ b ∧ b ≤ 48) (h : p.carriage.position ≠ .bin b) :
    p.take b = { p.setBin b { p.bin b with state := .stitching } with carriage := { p.carriage with
      queue := p.carriage.queue.filter fun d => d ≠ b
      held := some { bin := b, cond := .taken }
      state := .travelling, target := some (.bin b), deadline := some (p.now + 3000) } } := by
  simp only [Part.take, Part.setBinState, Part.leaveStitch, Part.setBin_of hb, if_neg h]
  rfl

/-- R88, R91: a set taken at the bin where the carriage stands: its cycle starts. -/
theorem Part.take_of_here {p : Part} {b : Nat} (hb : 1 ≤ b ∧ b ≤ 48) (h : p.carriage.position = .bin b)
    (henough : 12 + (p.bin b).set.planned.h ≤ p.carriage.wire) (hlow : hasCondition p.faults.attention .wireLow = true)
    (hout : hasCondition p.faults.attention .wireOut = true) :
    p.take b = { p.setBin b { state := .stitching, set := { (p.bin b).set with made := (p.bin b).set.made + 1 } } with
      carriage := { p.carriage with
        queue := p.carriage.queue.filter fun d => d ≠ b
        held := some { bin := b, cond := .taken }
        state := .stitching, target := none, deadline := some (p.now + 800)
        wire := p.carriage.wire - (12 + (p.bin b).set.planned.h) } } := by
  let q : Part := { p.setBin b { p.bin b with state := .stitching } with carriage := { p.carriage with
    queue := p.carriage.queue.filter fun d => d ≠ b, held := some { bin := b, cond := .taken } } }
  have taken : p.take b = q.startCycle b := by
    simp only [Part.take, Part.setBinState, Part.leaveStitch, q, Part.setBin_of hb, h, if_true]
    rfl
  have read : q.bin b = { p.bin b with state := .stitching } := Part.bin_setBin_self _ _ (binOk_iff.mpr hb)
  have faults : q.faults = p.faults := by simp [q]
  rw [taken, Part.startCycle_of_enough hb (by rw [read]; exact henough), Part.setWire_of_latched]
  · simp only [Part.cycling, read]
    simp only [q, Part.setBin_of hb, Vector.set_set, ← h]
  · simpa [Part.cycling, faults] using hlow
  · simpa [Part.cycling, faults] using hout

/-- R89: a set re-planned for want of wire: no more stitches, those made kept. -/
def Bin.replanned (r : Bin) : Bin := { state := .ejectWait, set := { r.set with plan := some (noWirePlan r.set) } }

/-- R89: a re-plan with the conveyor at work. -/
theorem Part.replan_of {p : Part} {b : Nat} (hb : 1 ≤ b ∧ b ≤ 48) (hm : p.ctl.mode = .automatic) (hv : p.conv.state ≠ .idle) :
    p.replan b = { p.setBin b (p.bin b).replanned with
      carriage := { p.carriage with queue := p.carriage.queue.filter fun c => c ≠ b }
      conv := { p.conv with queue := p.conv.queue ++ [{ bin := b, placeable := none }] } } := by
  have ok := binOk_iff.mpr hb
  let q : Part := { p with carriage := { p.carriage with queue := p.carriage.queue.filter fun c => c ≠ b } }
  let r : Bin := { q.bin b with set := { (q.bin b).set with plan := some (noWirePlan (q.bin b).set) } }
  have written : (q.setBin b r).setBinState b .ejectWait = q.setBin b (p.bin b).replanned := by
    rw [Part.setBinState_of _ (Part.bin_setBin_self q r ok), Part.setBin_setBin]
    rfl
  have replans : p.replan b = ((q.setBin b r).setBinState b .ejectWait).joinEject b := rfl
  rw [replans, written, Part.joinEject_of _ (by simp [q, hm]), Part.choiceCheck_of_not (by simpa [Part.appendEject, q] using fun _ => hv)]
  simp only [Part.appendEject, q, Part.setBin_of hb]

/-- R89: with too little wire for every set of the queue, the sets of jobs that go unstitched are re-planned, in order. -/
theorem Part.takeCheckN_replans (n : Nat) {p : Part} (hm : p.ctl.mode = .automatic) (hc : p.carriage.state = .idle)
    (hv : p.conv.state ≠ .idle) (hnodup : p.carriage.queue.Nodup)
    (hq : ∀ d ∈ p.carriage.queue, (1 ≤ d ∧ d ≤ 48) ∧ p.carriage.wire < (p.bin d).set.need) (hn : p.carriage.queue.length < n) :
    ∃ bins, Part.takeCheckN n p = { p with
        bins := bins
        carriage := { p.carriage with queue := p.carriage.queue.filter fun d => p.wireRuleOf d ≠ .unstitched }
        conv := { p.conv with queue := p.conv.queue ++
          (p.carriage.queue.filter fun d => p.wireRuleOf d = .unstitched).map fun d => { bin := d, placeable := none } } } ∧
      (∀ d ∈ p.carriage.queue.filter fun d => p.wireRuleOf d = .unstitched, Part.bin { p with bins := bins } d = (p.bin d).replanned) ∧
      ∀ d, d ∉ (p.carriage.queue.filter fun d => p.wireRuleOf d = .unstitched) → Part.bin { p with bins := bins } d = p.bin d := by
  induction n generalizing p with
  | zero => omega
  | succ n ih =>
    have unmet : p.carriage.queue.find? (fun b => (p.bin b).set.need ≤ p.carriage.wire) = none :=
      List.find?_eq_none.mpr fun d hd => by simpa using (hq d hd).2
    cases hb : p.carriage.queue.find? (fun b => p.wireRuleOf b == .unstitched) with
    | none =>
      have wait := List.find?_eq_none.mp hb
      have stay : p.carriage.queue.filter (fun d => p.wireRuleOf d ≠ .unstitched) = p.carriage.queue :=
        List.filter_eq_self.mpr fun d hd => by simpa using wait d hd
      have given : p.carriage.queue.filter (fun d => p.wireRuleOf d = .unstitched) = [] :=
        List.filter_eq_nil_iff.mpr fun d hd => by simpa using wait d hd
      refine ⟨p.bins, ?_, by rw [given]; exact nofun, fun d _ => rfl⟩
      rw [stay, given]
      simp only [Part.takeCheckN, if_pos (And.intro hc hm), unmet, hb, List.map_nil, List.append_nil]
    | some b =>
      obtain ⟨hrule, pre, post, hsplit, hpre⟩ := List.find?_eq_some_iff_append.mp hb
      have hrule : p.wireRuleOf b = .unstitched := by simpa using hrule
      have hpre (d : Nat) (hd : d ∈ pre) : p.wireRuleOf d ≠ .unstitched := by simpa using hpre d hd
      have hb48 := (hq b (by rw [hsplit]; simp)).1
      let q := p.replan b
      have replans : q = _ := Part.replan_of hb48 hm hv
      have step : Part.takeCheckN (n + 1) p = Part.takeCheckN n q := by
        simp only [Part.takeCheckN, if_pos (And.intro hc hm), unmet, hb]
        rfl
      have nodup : (pre ++ b :: post).Nodup := hsplit ▸ hnodup
      have away (d : Nat) (hd : d ∈ pre ++ post) : d ≠ b := by
        rintro rfl
        exact (List.nodup_middle.mp nodup).notMem hd
      have queue : q.carriage.queue = pre ++ post := by
        rw [replans]
        dsimp only
        rw [hsplit, List.filter_append, List.filter_cons_of_neg (by simp),
          List.filter_eq_self.mpr fun d hd => by simpa using away d (List.mem_append_left _ hd),
          List.filter_eq_self.mpr fun d hd => by simpa using away d (List.mem_append_right _ hd)]
      have read (d : Nat) : q.bin d = if d = b then (p.bin b).replanned else p.bin d := by
        have same : q.bin d = (p.setBin b (p.bin b).replanned).bin d := Part.bin_congr (by rw [replans]) d
        rw [same, Part.bin_setBin, binOk_iff.mpr hb48]
        simp only [and_true]
      have job (d : Nat) : (q.bin d).set.job = (p.bin d).set.job := by
        rw [read]
        split
        · next h => rw [h]; rfl
        · rfl
      have rule (d : Nat) : q.wireRuleOf d = p.wireRuleOf d := Part.wireRuleOf_congr (by rw [replans]; simp) (job d)
      have given : p.carriage.queue.filter (fun d => p.wireRuleOf d = .unstitched) =
          b :: (pre ++ post).filter fun d => p.wireRuleOf d = .unstitched := by
        rw [hsplit, List.filter_append, List.filter_append, List.filter_cons_of_pos (by simpa using hrule),
          List.filter_eq_nil_iff.mpr fun d hd => by simpa using hpre d hd]
        rfl
      have kept : p.carriage.queue.filter (fun d => p.wireRuleOf d ≠ .unstitched) =
          (pre ++ post).filter fun d => p.wireRuleOf d ≠ .unstitched := by
        rw [hsplit, List.filter_append, List.filter_append, List.filter_cons_of_neg (by simpa using hrule)]
      have members (d : Nat) (hd : d ∈ pre ++ post) : d ∈ p.carriage.queue := by
        rw [hsplit]
        simp only [List.mem_append, List.mem_cons] at hd ⊢
        exact hd.imp_right .inr
      have left : (pre ++ post).length < n := by
        rw [hsplit] at hn
        simp only [List.length_append, List.length_cons] at hn ⊢
        omega
      obtain ⟨bins, checked, done, rest⟩ := ih (p := q) (by rw [replans]; simpa using hm) (by rw [replans]; exact hc)
        (by rw [replans]; exact hv) (by rw [queue]; exact (List.nodup_cons.mp (List.nodup_middle.mp nodup)).2)
        (fun d hd => by
          rw [queue] at hd
          rw [read, if_neg (away d hd), show q.carriage.wire = p.carriage.wire by rw [replans]]
          exact hq d (members d hd))
        (by rw [queue]; exact left)
      simp only [rule, queue] at checked done rest
      rw [given, kept, step, checked]
      refine ⟨bins, ?_, fun d hd => ?_, fun d hd => ?_⟩
      · rw [replans]
        simp only [Part.setBin_of hb48, List.map_cons, List.append_assoc, List.singleton_append]
      · rcases List.mem_cons.mp hd with rfl | hd
        · have absent : d ∉ (pre ++ post).filter fun d => p.wireRuleOf d = .unstitched := fun h =>
            away d (List.mem_filter.mp h).1 rfl
          exact (rest d absent).trans ((read d).trans (if_pos rfl))
        · have other := away d (List.mem_filter.mp hd).1
          refine (done d hd).trans ?_
          rw [read, if_neg other]
      · rw [List.mem_cons, not_or] at hd
        exact (rest d hd.2).trans ((read d).trans (if_neg hd.1))

/-- Settles O42: the cycle that starts, the set that goes back, and the take check at TRANSPORT_READY. -/
theorem aStitchCycleStarts : Obligations.AStitchCycleStarts := by
  intro s b occ hsettled hh hb p r one need arrives continues
  have silent : p.out = { reset := false, notices := [] } := hsettled
  let f (p : Part) : Part := p.unlessHalted fun p => p.onCarriageAt b
  have arrived (h : arrives) : exec (.carriageAt b occ) s = .next ((s.sample occ).act f) ∧
      f (s.sample occ).part = (Part.startCycle (p.sample occ) b).takeCheck.examineIdle := by
    refine ⟨if_pos (binOk_iff.mpr hb), (Part.unlessHalted_of_ne (by exact hh) _).trans ?_⟩
    have state : (p.sample occ).carriage.state = .travelling := h.1
    have target : (p.sample occ).carriage.target = some (.bin b) := h.2
    simp only [Part.onCarriageAt, State.sample, show s.part = p from rfl, state, target, if_true]
  let g (p : Part) : Part := p.unlessHalted Part.onStitchDone
  have continued (h : continues) : exec .stitchDone s = .next (s.act g) ∧ g s.part = (p.startCycle b).takeCheck.examineIdle := by
    obtain ⟨state, ⟨x, held, rfl⟩, short, hm⟩ := h
    refine ⟨rfl, (Part.unlessHalted_of_ne (by exact hh) _).trans ?_⟩
    simp only [Part.onStitchDone, show s.part = p from rfl, state, held]
    rw [if_neg (Nat.not_le.mpr (by exact short)), if_neg hm]
  refine ⟨fun henough => ⟨fun h => ?_, fun h => ?_⟩, fun us ns hshort hout hq hus hns hstuck => ⟨fun h => ?_, fun h => ?_⟩,
    fun hbusy hm hc hv => ?ready⟩
  · obtain ⟨e, checked⟩ := arrived h
    have latched := Part.startCycle_checked (p := p.sample occ) hb henough
    rw [← checked] at latched
    obtain ⟨pending, part⟩ := State.act_latched latched (Part.unidled_settled (by simpa [Part.cycling, Part.Settled] using silent))
    refine ⟨_, e, pending, part.trans ?_⟩
    simp only [Part.cycling, Part.sample, Part.setBin_of hb]
    unfold Part.unidled
    dsimp only
    split <;> rfl
  · obtain ⟨e, checked⟩ := continued h
    have latched := Part.startCycle_checked (p := p) hb henough
    rw [← checked] at latched
    obtain ⟨pending, part⟩ := State.act_latched latched (Part.unidled_settled (by simpa [Part.cycling, Part.Settled] using silent))
    refine ⟨_, e, pending, part.trans ?_⟩
    simp only [Part.cycling, Part.setBin_of hb]
    unfold Part.unidled
    dsimp only
    split <;> rfl
  · obtain ⟨e, checked⟩ := arrived h
    have returned := Part.startCycle_returns (p := p.sample occ) hb hshort hout hq hus hns hstuck
    refine e.trans (congrArg Host.Outcome.next ((State.act_of (f := f) (checked.trans returned) ?_).trans ?_))
    · simpa [Part.Settled] using silent
    · simp only [State.sample, Part.sample, Part.setBin_of hb]
      unfold Part.unidled
      dsimp only
      split <;> rfl
  · obtain ⟨e, checked⟩ := continued h
    have returned := Part.startCycle_returns (p := p) hb hshort hout hq hus hns hstuck
    refine e.trans (congrArg Host.Outcome.next (State.act_of (f := g) (checked.trans (returned.trans ?_)) ?_))
    · simp only [Part.setBin_of hb]
      rfl
    · simpa [Part.Settled] using silent
  case ready =>
    intro c readies
    -- the part in AUTOMATIC, before the take check
    let q : Part := { p with
      ctl := { c with mode := .automatic, wakingDeadline := none }
      out := { reset := false, notices := [.modeNow .automatic (some .waking) .transportReady none c.doorOpen c.keyOn] } }
    have ready : p.onTransportReady = q.takeCheck.choiceCheck.examineIdle := by
      rw [Part.onTransportReady, if_pos hm]
      simp only [Part.changeMode, Part.raise, silent, List.nil_append, show p.ctl.mode = _ from hm]
      rfl
    have rests (x : Part) (h : x.conv.state = p.conv.state) : x.choiceCheck.examineIdle = x.unidled := by
      rw [Part.choiceCheck_of_not fun _ => by rw [h]; exact hv, Part.examineIdle_of_not fun _ hi => hv (h.symm.trans hi.conveyor)]
    have readied {x : Part} {y : Part} (hx : q.takeCheck = x) (hconv : x.conv.state = p.conv.state)
        (hy : x = { y with ctl := q.ctl, out := q.out }) (hout : y.Settled) : readies y := by
      refine congrArg Host.Outcome.next (State.act_raises (ready.trans ?_) (by exact hout) hbusy.sending (by simpa using hbusy.room))
      rw [hx, rests x hconv, hy]
      rfl
    refine ⟨fun pre post hq hpre hneed => ?_, fun hnodup hq => ?_⟩
    · intro taken
      have first (x : Part) (hx : q.take b = x) (hwork : x.carriage.state ≠ .idle) : q.takeCheck = x := by
        rw [← hx] at hwork ⊢
        exact Part.takeCheck_of_first rfl hc hq hpre hneed hwork
      refine ⟨fun haway => ?_, fun hhere henough hlow hout => ?_⟩
      · refine readied (first _ (Part.take_of_away hb haway) nofun) (by simp [q]) ?_ (by simpa [Part.Settled] using silent)
        simp only [q, Part.setBin_of hb]
        rfl
      · refine readied (first _ (Part.take_of_here hb hhere henough hlow hout) nofun) (by simp [q]) ?_
          (by simpa [Part.Settled] using silent)
        simp only [q, Part.setBin_of hb]
        rfl
    · intro given
      obtain ⟨bins, checked, done, rest⟩ := Part.takeCheckN_replans (q.carriage.queue.length + 2) (p := q) rfl hc hv hnodup hq
        (by omega)
      exact ⟨{ p with bins := bins }, readied checked rfl rfl silent, done, rest⟩

end Sys2Proof.Machine
end

section
/-! Conditions latched by one act after another (R151). -/

namespace Sys2Proof.Machine

/-! ## Conditions latched by one act, in order -/

theorem State.queued_queued (s : State) (ns ms : List Notice) : (s.queued ns).queued ms = s.queued (ns ++ ms) := by
  induction ns generalizing s with
  | nil => simp
  | cons n ns ih =>
    rw [State.queued_cons, ih (s.queued [n]), List.cons_append, State.queued_cons s n (ns ++ ms)]

/-- The flags and the notices of a condition latched in a fault block. -/
def FaultBlock.raised (f : FaultBlock) (c : Condition) : FaultBlock × List Notice :=
  if hasCondition f.attention c then (f, [])
  else
    let set := f.attention ||| conditionMask c
    ({ f with attention := set }, if hasCondition f.reportMask c then [.attnRaised c set] else [])

theorem Part.latch_eq (p : Part) (c : Condition) :
    p.latch c = { p with
      faults := (p.faults.raised c).1, out := { p.out with notices := p.out.notices ++ (p.faults.raised c).2 } } := by
  unfold Part.latch FaultBlock.raised
  dsimp only
  split
  · simp
  · split <;> simp [Part.raise]

theorem State.latched_eq (s : State) (c : Condition) :
    s.latched c = ({ s with part := { s.part with faults := (s.part.faults.raised c).1 } } : State).queued (s.part.faults.raised c).2 := by
  unfold State.latched FaultBlock.raised conditionMask
  dsimp only
  split
  · simp
  · split <;> simp

theorem FaultBlock.raised_length (f : FaultBlock) (c : Condition) : (f.raised c).2.length ≤ 1 := by
  unfold FaultBlock.raised
  (repeat' split) <;> simp

/-- Conditions latched after notices: at the part, and at the press link. -/
theorem Part.foldl_latch (cs : List Condition) (s : State) (q : Part) (ns : List Notice) :
    ∃ (f : FaultBlock) (ms : List Notice), ms.length ≤ ns.length + cs.length ∧
      cs.foldl Part.latch { q with out := { reset := false, notices := ns } } =
        { q with faults := f, out := { reset := false, notices := ms } } ∧
      cs.foldl State.latched (({ s with part := q } : State).queued ns) =
        ({ s with part := { q with faults := f } } : State).queued ms := by
  induction cs generalizing q ns with
  | nil => exact ⟨q.faults, ns, by simp, rfl, rfl⟩
  | cons c cs ih =>
    obtain ⟨f, ms, length, part, link⟩ := ih { q with faults := (q.faults.raised c).1 } (ns ++ (q.faults.raised c).2)
    have one := q.faults.raised_length c
    refine ⟨f, ms, ?_, ?_, ?_⟩
    · simp only [List.length_append, List.length_cons] at length ⊢
      omega
    · rw [List.foldl_cons, Part.latch_eq]
      exact part
    · rw [List.foldl_cons, State.latched_eq]
      refine Eq.trans (congrArg (fun x => cs.foldl State.latched x) ?_) link
      exact State.queued_queued { s with part := { q with faults := (q.faults.raised c).1 } } ns _

/-- An act that raises notices and then latches conditions. -/
theorem State.act_latches {s : State} {f : Part → Part} {q : Part} {ns : List Notice} {cs : List Condition}
    (e : f s.part = cs.foldl Part.latch { q with out := { reset := false, notices := ns } }) (hq : q.Settled)
    (hs : s.link.sending.isSome = true) (room : s.link.outbox.length + (ns.length + cs.length) ≤ 32) :
    s.act f = cs.foldl State.latched (({ s with part := q } : State).queued ns) := by
  obtain ⟨g, ms, length, part, link⟩ := Part.foldl_latch cs s q ns
  rw [link, State.act_raises (q := { q with faults := g }) (e.trans part) hq hs (by omega)]

end Sys2Proof.Machine
end

section
/-! The choice of a finished set, and the trip that it begins (R100 to R105): O52. -/

namespace Sys2Proof.Machine

/-! ## R102: the entries tested -/

def EjectEntry.tested (e : EjectEntry) (b : Bool) : EjectEntry := { e with placeable := some b }

theorem testEntries_of_first {passes : Nat → Bool} {pre post : List EjectEntry} {e : EjectEntry}
    (hpre : ∀ x ∈ pre, passes x.bin = false) (he : passes e.bin = true) :
    testEntries passes (pre ++ e :: post) =
      (pre.map (·.tested false) ++ e.tested true :: post, some e.bin) := by
  induction pre with
  | nil => simp [testEntries, he, EjectEntry.tested]
  | cons x xs ih =>
    have rest := ih fun y hy => hpre y (List.mem_cons_of_mem _ hy)
    have first : passes x.bin = false := hpre x List.mem_cons_self
    simp [testEntries, first, rest, EjectEntry.tested]

theorem testEntries_of_stuck {passes : Nat → Bool} {q : List EjectEntry} (h : ∀ x ∈ q, passes x.bin = false) :
    testEntries passes q = (q.map (·.tested false), none) := by
  induction q with
  | nil => rfl
  | cons x xs ih =>
    have rest := ih fun y hy => h y (List.mem_cons_of_mem _ hy)
    have first : passes x.bin = false := h x List.mem_cons_self
    simp [testEntries, first, rest, EjectEntry.tested]

/-! ## R103 to R105: the bin chosen, and its trip -/

/-- R120: the resolution of the set in bin `b`; a void or an ORPHAN set has none. -/
def Part.resolved (p : Part) (b : Nat) : Option Resolution :=
  (p.destOf b).map fun dest => p.drawers.resolve dest (p.bin b).set.stack

/-- R102: the place that the set in bin `b` resolves to. -/
def Part.placeOf (p : Part) (b : Nat) : Place := ((p.resolved b).map Resolution.place).getD .overflow

/-- R103: bin `b` chosen, its trip not yet begun. -/
def Part.chosen (p : Part) (b : Nat) : Part :=
  { p.setBin b { p.bin b with state := .ejecting } with
    drawers := (((p.resolved b).map Resolution.map).getD p.drawers).setAwaited (p.placeOf b) true
    out := { p.out with notices := p.out.notices ++ (((p.resolved b).map Resolution.changes).getD []).map .drawerChanged }
    conv := { p.conv with queue := p.conv.queue.filter (fun e => e.bin ≠ b), trip := some (p.tripOf b (p.placeOf b)) } }

theorem Part.placeable_eq (p : Part) (b : Nat) :
    p.placeable b = match p.placeOf b with
      | .drawer _ => true
      | .overflow => trayAccepts p.conv.tray (p.destOf b) (p.bin b).set.stack := by
  unfold Part.placeable Part.placeOf Part.resolved
  cases hd : p.destOf b <;> rfl

theorem Part.choose_eq {p : Part} {b : Nat} (hb : 1 ≤ b ∧ b ≤ 48) :
    p.choose b = match p.placeOf b with
      | .drawer _ => (p.chosen b).startEjector
      | .overflow => (p.chosen b).slipStep := by
  unfold Part.choose Part.fixPlace Part.chosen Part.placeOf Part.resolved
  have dest (q : List EjectEntry) : Part.destOf { p with conv := { p.conv with queue := q } } b = p.destOf b := rfl
  dsimp only
  rw [dest]
  cases hd : p.destOf b with
  | none =>
    simp only [Part.setBinState, Part.setBin_of hb, Option.map_none, Option.getD_none, List.map_nil, List.append_nil]
    rfl
  | some x =>
    simp only [Part.drawerAct_eq, Part.setBinState, Part.setBin_of hb, Option.map_some, Option.getD_some]
    rfl

/-- R105: the ejector started for the trip `t`. -/
def Part.ejects (p : Part) (t : Trip) : Part :=
  { p with
    path := { p.path with account := { p.path.account with
      inBins := p.path.account.inBins - BitVec.ofNat 32 t.sheets
      inReturn := p.path.account.inReturn + BitVec.ofNat 32 t.sheets } }
    conv := { p.conv with state := .carrying, trip := some { t with deadline := some (p.now + 5000) } } }

theorem Part.ejects_blind (t : Trip) : Part.Blind fun p => p.ejects t := fun _ _ _ => rfl

theorem Part.startEjector_of {p : Part} {t : Trip} (h : p.conv.trip = some t) : p.startEjector = p.ejects t := by
  unfold Part.startEjector
  rw [h]
  rfl

theorem Part.slipStep_joins {p : Part} {t : Trip} (h : p.conv.trip = some t) (hs : slipNeeded p.conv.tray.groups t.dest = false) :
    p.slipStep = p.ejects { t with header := some .joins } := by
  unfold Part.slipStep
  rw [h]
  simp only [hs, Bool.false_eq_true, if_false]
  refine (Part.startEjector_of (t := { t with header := some .joins }) ?_).trans rfl
  simp [Part.modTrip, h]

theorem Part.slipStep_unmarked {p : Part} {t : Trip} (h : p.conv.trip = some t) (hs : slipNeeded p.conv.tray.groups t.dest = true)
    (ho : p.conv.slipOut = true) :
    p.slipStep = (p.ejects { t with header := some .unmarked }).latch .slipEmpty := by
  let g (q : Part) : Part := q.ejects { t with header := some .unmarked }
  unfold Part.slipStep
  rw [h]
  simp only [hs, ho, if_true]
  refine (Part.startEjector_of (t := { t with header := some .unmarked }) ?_).trans ?_
  · rw [Part.latch_eq]
    simp [Part.modTrip, h]
  · exact (Part.ejects_blind _).latch (p.modTrip _) .slipEmpty

theorem Part.slipStep_feeds {p : Part} {t : Trip} (h : p.conv.trip = some t) (hs : slipNeeded p.conv.tray.groups t.dest = true)
    (ho : p.conv.slipOut = false) :
    p.slipStep = { p with conv := { p.conv with
      state := .slip, feeder := .feeding
      trip := some { t with header := some .pending, deadline := some (p.now + 1000) } } } := by
  unfold Part.slipStep
  rw [h]
  simp only [hs, ho, if_true]
  rfl

/-! ## R102: the choice check -/

/-- The first entry that passes is chosen; OVERFLOW_FULL is not latched anew. -/
theorem Part.choiceCheck_of_first {p : Part} {pre post : List EjectEntry} {e : EjectEntry} (hc : p.conv.state = .idle)
    (hm : p.ctl.mode = .automatic) (hq : p.conv.queue = pre ++ e :: post)
    (hpre : ∀ x ∈ pre, p.placeable x.bin = false) (he : p.placeable e.bin = true)
    (hfull : pre = [] ∨ hasCondition p.faults.attention .overflowFull = true) :
    p.choiceCheck =
      Part.choose { p with conv := { p.conv with queue := pre.map (·.tested false) ++ e.tested true :: post } } e.bin := by
  unfold Part.choiceCheck
  rw [if_pos ⟨hc, hm⟩, hq, testEntries_of_first hpre he]
  dsimp only
  refine congrArg (fun q : Part => q.choose e.bin) ?_
  rcases hfull with hpre | hfull
  · have level : (Conveyor.fullLevel { p.conv with queue := pre.map (·.tested false) ++ e.tested true :: post } && !p.conv.fullLevel) = false := by
      simp only [Conveyor.fullLevel, hq, hpre, List.map_nil, List.nil_append, List.any_cons, EjectEntry.tested]
      cases post.any fun e => e.placeable == some false <;> simp
    rw [level]
    rfl
  · exact Part.latchIf_of_has _ (by exact hfull)

theorem Part.choiceCheck_of_stuck {p : Part} (hc : p.conv.state = .idle)
    (hm : p.ctl.mode = .automatic) (h : ∀ x ∈ p.conv.queue, p.placeable x.bin = false) :
    p.choiceCheck =
      Part.latchIf { p with conv := { p.conv with queue := p.conv.queue.map (·.tested false) } }
        (!p.conv.queue.isEmpty && !p.conv.fullLevel) .overflowFull := by
  unfold Part.choiceCheck
  rw [if_pos ⟨hc, hm⟩, testEntries_of_stuck h]
  dsimp only
  congr 2
  cases p.conv.queue <;> simp [Conveyor.fullLevel, EjectEntry.tested]

/-- The chosen entry leaves the queue, no other entry being of its bin. -/
theorem filter_chosen {pre post : List EjectEntry} {e : EjectEntry} (nodup : ((pre ++ e :: post).map EjectEntry.bin).Nodup) :
    (pre.map (·.tested false) ++ e.tested true :: post).filter (fun x => x.bin ≠ e.bin) = pre.map (·.tested false) ++ post := by
  simp only [List.map_append, List.map_cons, List.nodup_append, List.nodup_cons, List.mem_map, List.mem_cons, not_exists, not_and] at nodup
  obtain ⟨-, ⟨after, -⟩, before⟩ := nodup
  have kept (x : EjectEntry) (hx : x ∈ pre) : x.bin ≠ e.bin := before x.bin ⟨x, hx, rfl⟩ e.bin (.inl rfl)
  simp only [List.filter_append, List.filter_cons, List.filter_map]
  congr 1
  · refine congrArg (List.map _) (List.filter_eq_self.mpr fun x hx => ?_)
    exact decide_eq_true (kept x hx)
  · simp only [EjectEntry.tested, ne_eq, not_true_eq_false, decide_false, Bool.false_eq_true, if_false]
    exact List.filter_eq_self.mpr fun x hx => decide_eq_true (after x hx)

theorem Part.placeOf_iff {p : Part} {b : Nat} :
    p.placeOf b = .overflow ↔ ∀ x, p.destOf b = some x → (p.drawers.resolve x (p.bin b).set.stack).place = .overflow := by
  unfold Part.placeOf Part.resolved
  cases p.destOf b <;> simp

theorem slipNeeded_eq (groups : List Group) (key : Option Nat) :
    slipNeeded groups key = (groups.getLast?.map Group.key != some key) := by
  unfold slipNeeded
  cases groups.getLast? with
  | none => rfl
  | some g => simp [bne]

theorem trayAccepts_iff {tray : Tray} {key : Option Nat} {t : Nat} :
    trayAccepts tray key t = true ↔ tray.heldFull = false ∧ tray.sets + 1 ≤ 80 ∧
      tray.stack + t + (if (tray.groups.getLast?.map Group.key != some key) = true then 150 else 0) ≤ 120000 := by
  simp only [trayAccepts, ← slipNeeded_eq, Bool.and_eq_true, Bool.not_eq_true', decide_eq_true_iff, and_assoc]
  rfl

/-- R103: bin `b` chosen, the queue left as `rest`. -/
def Part.chosenFrom (p : Part) (b : Nat) (rest : List EjectEntry) : Part :=
  { p.chosen b with conv := { (p.chosen b).conv with queue := rest } }

/-- R102, R103: the first entry that passes is chosen. -/
theorem Part.choiceCheck_of_chosen {p : Part} {pre post : List EjectEntry} {e : EjectEntry} (hc : p.conv.state = .idle)
    (hm : p.ctl.mode = .automatic) (hq : p.conv.queue = pre ++ e :: post) (nodup : ((pre ++ e :: post).map EjectEntry.bin).Nodup)
    (hpre : ∀ x ∈ pre, p.placeable x.bin = false) (he : p.placeable e.bin = true)
    (hb : 1 ≤ e.bin ∧ e.bin ≤ 48) (hfull : pre = [] ∨ hasCondition p.faults.attention .overflowFull = true) :
    p.choiceCheck = match p.placeOf e.bin with
      | .drawer _ => (p.chosenFrom e.bin (pre.map (·.tested false) ++ post)).startEjector
      | .overflow => (p.chosenFrom e.bin (pre.map (·.tested false) ++ post)).slipStep := by
  let q : Part := { p with conv := { p.conv with queue := pre.map (·.tested false) ++ e.tested true :: post } }
  have chosen : q.chosen e.bin = p.chosenFrom e.bin (pre.map (·.tested false) ++ post) := by
    simp only [q, Part.chosen, Part.chosenFrom, filter_chosen nodup, Part.setBin_of hb]
    rfl
  rw [Part.choiceCheck_of_first hc hm hq hpre he hfull, Part.choose_eq hb, ← chosen]
  rfl

/-- R120, R123: a resolution that ends at the tray has made one drawer FULL at most. -/
theorem DrawerMap.changes_of_overflow {m : DrawerMap} {dest t : Nat} (h : (m.resolve dest t).place = .overflow) :
    (m.resolve dest t).changes.length ≤ 1 := by
  have allocated {k : DrawerMap} {cs : List DrawerChange} (h : (k.allocate dest cs).place = .overflow) :
      (k.allocate dest cs).changes = cs := by
    cases hd : k.choice dest with
    | none => rw [DrawerMap.allocate_of_none cs hd]
    | some d => simp [DrawerMap.allocate_of_choice cs hd] at h
  cases hf : m.found dest with
  | none =>
    rw [DrawerMap.resolve_of_none hf] at h ⊢
    simp [allocated h]
  | some f =>
    rw [DrawerMap.resolve_of_found hf] at h ⊢
    split at h
    · simp at h
    · next ha =>
      rw [if_neg ha, allocated h, (DrawerMap.makeFull_spec (DrawerMap.openFor_of_found hf)).1]
      simp

theorem Part.unidled_blind : Part.Blind Part.unidled := by
  intro p f o
  unfold Part.unidled
  dsimp only
  split <;> rfl

theorem Part.Blind.foldl_latch {g : Part → Part} (h : Part.Blind g) (cs : List Condition) (p : Part) :
    g (cs.foldl Part.latch p) = cs.foldl Part.latch (g p) := by
  induction cs generalizing p with
  | nil => rfl
  | cons c cs ih => rw [List.foldl_cons, ih, h.latch]; rfl

theorem Part.foldl_latch_frame (cs : List Condition) (p : Part) :
    cs.foldl Part.latch p =
      { p with faults := (cs.foldl Part.latch p).faults, out := (cs.foldl Part.latch p).out } := by
  induction cs generalizing p with
  | nil => rfl
  | cons c cs ih =>
    rw [List.foldl_cons, ih (p.latch c), Part.latch_eq]

/-- R140: with a trip on the conveyor the idle condition does not hold, whatever is latched. -/
theorem Part.examineIdle_of_latches {p x : Part} {cs : List Condition} (h : p = cs.foldl Part.latch x)
    (hx : ¬ x.IdleCond) : p.examineIdle = cs.foldl Part.latch x.unidled := by
  rw [← Part.unidled_blind.foldl_latch, ← h]
  refine Part.examineIdle_of_not fun _ hi => hx ?_
  rw [h, Part.foldl_latch_frame] at hi
  exact ⟨hi.1, hi.2, hi.3, hi.4, hi.5, hi.6, hi.7, hi.8⟩

/-- R120: the one OPEN drawer of the set's destination takes it. -/
theorem Part.resolved_of_drawer {p : Part} {b dest d : Nat} {pile : Pile} (hdest : p.destOf b = some dest)
    (hopen : p.drawers.OpenFor dest d) (honly : ∀ e, p.drawers.OpenFor dest e → e = d) (hpile : (p.drawers.drawer d).pile = some pile)
    (hcount : pile.count + 1 ≤ 20) (hstack : pile.stack + (p.bin b).set.stack ≤ 40000) :
    p.resolved b = some { map := p.drawers, changes := [], place := .drawer d } := by
  have found : p.drawers.found dest = some d := DrawerMap.found_of_only fun e => ⟨honly e, fun he => he ▸ hopen⟩
  unfold Part.resolved
  rw [hdest]
  refine congrArg some ((DrawerMap.resolve_of_found (t := (p.bin b).set.stack) found).trans ?_)
  exact if_pos (pileAccepts_iff.mpr ⟨pile, hpile, hcount, hstack⟩)

/-- R102, R105: the only entry goes to its drawer. -/
theorem Part.choiceCheck_of_drawer {p : Part} {b d : Nat} (hc : p.conv.state = .idle) (hm : p.ctl.mode = .automatic)
    (hq : p.conv.queue = [{ bin := b, placeable := none }]) (hb : 1 ≤ b ∧ b ≤ 48)
    (hr : p.resolved b = some { map := p.drawers, changes := [], place := .drawer d }) :
    p.choiceCheck = (p.chosenFrom b []).ejects (p.tripOf b (.drawer d)) := by
  have place : p.placeOf b = .drawer d := by simp [Part.placeOf, hr]
  have chosen := Part.choiceCheck_of_chosen (pre := []) (post := []) hc hm hq (by simp) nofun (by rw [Part.placeable_eq, place]) hb
    (.inl rfl)
  rw [place] at chosen
  refine chosen.trans (Part.startEjector_of ?_)
  rw [← place]
  rfl

/-- Settles O52: the set handed on to its drawer, and the choice at TRANSPORT_READY. -/
theorem aFinishedSetIsEjectedToItsDrawer : Obligations.AFinishedSetIsEjectedToItsDrawer := by
  intro s hsettled p a
  have silent : p.out = { reset := false, notices := [] } := hsettled
  constructor
  · intro h j d pile hm hc hh hb hmade hvoid hjob hjn hqc hqv hv hd hopen hdest honly hpile hcount hstack set m
    let q : Part := { p with
      bins := (p.setBin h.bin { state := .ejectWait, set := set }).bins
      carriage := { p.carriage with state := .idle, position := .bin h.bin, held := none, target := none, deadline := none }
      conv := { p.conv with queue := [{ bin := h.bin, placeable := none }] } }
    have handed : p.handedOn h.bin = q := by
      simp only [Part.handedOn, Part.setBin_of hb, hqv, q]
      rfl
    have bin : q.bin h.bin = { state := .ejectWait, set := set } := (Part.bin_setBin ..).trans (if_pos ⟨rfl, binOk_iff.mpr hb⟩)
    have destOf : q.destOf h.bin = some j.dest := by
      have job : q.job? j.number = some j := hjn
      simp only [Part.destOf, Part.binJob, bin, set, hvoid, hjob]
      simp [job]
    have resolution : q.resolved h.bin = some { map := p.drawers, changes := [], place := .drawer d } := by
      refine Part.resolved_of_drawer (p := q) destOf ⟨hd.1, hd.2, hopen, hdest⟩ (fun e he => ?_) hpile hcount (by rw [bin]; exact hstack)
      by_contra hne
      exact honly e ⟨he.1, he.2.1⟩ hne he.2.2.1 he.2.2.2
    have place : q.placeOf h.bin = .drawer d := by simp [Part.placeOf, resolution]
    have chosen := Part.choiceCheck_of_drawer (p := q) hv hm rfl hb resolution
    let x : Part := { p with
      bins := (p.setBin h.bin { state := .ejecting, set := set }).bins
      carriage := { p.carriage with state := .idle, position := .bin h.bin, held := none, target := none, deadline := none }
      drawers := p.drawers.setAwaited (.drawer d) true
      conv := { p.conv with trip := some (q.tripOf h.bin (.drawer d)) } }
    have form : q.chosenFrom h.bin [] = x := by
      simp only [Part.chosenFrom, Part.chosen, resolution, place, bin, List.map_nil, Option.map_some, Option.getD_some, List.append_nil]
      simp only [q, x, Part.setBin_of hb, Vector.set_set, hqv]
    rw [form] at chosen
    have moved : p.onStitchDone = (x.ejects (q.tripOf h.bin (.drawer d))).unidled := by
      have held : p.carriage.held = some h := hh
      have moved : p.onStitchDone = (p.handOn h.bin).examineIdle := by
        simp only [Part.onStitchDone, hc, held]
        exact if_pos hmade
      rw [moved, Part.handOn_eq hb (by rw [hm]; exact nofun), handed, chosen]
      have taken : (x.ejects (q.tripOf h.bin (.drawer d))).takeCheck = _ := Part.takeCheck_of_empty hqc
      rw [taken]
      exact Part.examineIdle_of_not fun _ hi => nomatch hi.conveyor
    refine ⟨p.drawers.setAwaited (.drawer d) true, congrArg Host.Outcome.next ?_, ?_⟩
    · refine (State.act_of ((Part.unlessHalted_of_ne (by rw [hm]; exact nofun) _).trans moved) ?_).trans ?_
      · simpa [Part.ejects, x, Part.Settled] using silent
      · rw [show (x.ejects (q.tripOf h.bin (.drawer d))).unidled = _ from if_pos hm]
        simp only [Part.ejects, x]
        simp only [Part.setBin_of hb]
        simp only [Part.tripOf, bin, destOf, SetRecord.sheets, show set.job = _ from hjob, show set.void = _ from hvoid]
        rfl
    · obtain ⟨at_, others, rest⟩ := DrawerMap.setAwaited_spec p.drawers (.drawer d) true
      exact ⟨at_ d rfl hd, fun e he => others e fun h => he (Place.drawer.inj h).symm, rest⟩
  · intro dest needed noDrawer room readies hbusy hm hc hv
    let modeNow : Notice := .modeNow .automatic (some .waking) .transportReady none p.ctl.doorOpen p.ctl.keyOn
    let q : Part := { p with
      ctl := { p.ctl with mode := .automatic, wakingDeadline := none }, out := { reset := false, notices := [modeNow] } }
    have ready : p.onTransportReady = q.choiceCheck.examineIdle := by
      have carriage : q.takeCheck = q := Part.takeCheck_of_not fun _ => hc
      rw [Part.onTransportReady, if_pos hm]
      refine Eq.trans ?_ (congrArg (fun x => x.choiceCheck.examineIdle) carriage)
      simp only [Part.changeMode, Part.raise, silent, List.nil_append, show p.ctl.mode = _ from hm]
      rfl
    have place {b : Nat} (h : noDrawer b) : q.placeOf b = .overflow := Part.placeOf_iff.mpr h
    have takes {b : Nat} (h : noDrawer b) : q.placeable b = true ↔ room b := by
      rw [Part.placeable_eq, place h]
      exact trayAccepts_iff
    refine ⟨fun pre post e hq nodup hpre hfull hnone hroom hb => ?_, fun e hq hnone hroom => ?_⟩
    · intro set resolved goes carries
      have chosen : q.choiceCheck = (q.chosenFrom e.bin (pre.map (·.tested false) ++ post)).slipStep := by
        have checked := Part.choiceCheck_of_chosen (p := q) hv rfl hq nodup
          (fun x hx => Bool.eq_false_iff.mpr fun h => (hpre x hx).2 ((takes (hpre x hx).1).mp h)) ((takes hnone).mpr hroom) hb hfull
        rw [place hnone] at checked
        exact checked
      have trip : (q.chosenFrom e.bin (pre.map (·.tested false) ++ post)).conv.trip = some (q.tripOf e.bin .overflow) := by
        rw [← place hnone]
        rfl
      let changed : List Notice := ((resolved.map Resolution.changes).getD []).map .drawerChanged
      have room (cs : List Condition) (h : cs.length ≤ 1) : s.link.outbox.length + ((modeNow :: changed).length + cs.length) ≤ 32 := by
        have := hbusy.room
        have : changed.length ≤ 1 := by
          cases hd : dest e.bin with
          | none => simp [changed, resolved, hd]
          | some x => simpa [changed, resolved, hd] using DrawerMap.changes_of_overflow (hnone x hd)
        simp only [List.length_cons]
        omega
      have trayed : (q.chosenFrom e.bin (pre.map (·.tested false) ++ post)) =
        { p.setBin e.bin { state := .ejecting, set := set } with
            ctl := q.ctl
            drawers := (resolved.map Resolution.map).getD p.drawers
            out := { reset := false, notices := modeNow :: changed }
            conv := { p.conv with queue := pre.map (·.tested false) ++ post, trip := some (q.tripOf e.bin .overflow) } } := by
        simp only [Part.chosenFrom, Part.chosen, place hnone, Part.setBin_of hb]
        rfl
      -- the trip begun as `x`, conditions latched
      have begun {x y : Part} {cs : List Condition} (hcs : cs.length ≤ 1) (hy : y.Settled)
          (hx : (q.chosenFrom e.bin (pre.map (·.tested false) ++ post)).slipStep = cs.foldl Part.latch x) (hbegun : x.conv.state ≠ .idle)
          (hxy : x.unidled = { y with out := { reset := false, notices := modeNow :: changed } }) :
          exec .transportReady s = .next (cs.foldl State.latched (({ s with part := y } : State).queued (modeNow :: changed))) := by
        refine congrArg Host.Outcome.next (State.act_latches (ready.trans ?_) hy hbusy.sending (room cs hcs))
        rw [← hxy]
        exact Part.examineIdle_of_latches (chosen.trans hx) fun hi => hbegun hi.conveyor
      have settled (k : DrawerMap) (v : Conveyor) (b : SortPath) (c : ModeCtl) :
          Part.Settled { p.setBin e.bin { state := .ejecting, set := set } with ctl := c, path := b, drawers := k, conv := v } := by
        simpa [Part.Settled] using silent
      refine ⟨fun hs => ?_, fun hs ho => ?_, fun hs ho => ?_⟩
      · refine begun (cs := []) (by simp) (settled ..) (Part.slipStep_joins trip ((slipNeeded_eq _ _).trans hs)) nofun ?_
        rw [trayed]
        simp only [Part.setBin_of hb]
        rfl
      · refine begun (cs := [.slipEmpty]) (by simp) (settled ..) (Part.slipStep_unmarked trip ((slipNeeded_eq _ _).trans hs) ho) nofun ?_
        rw [trayed]
        simp only [Part.setBin_of hb]
        rfl
      · refine begun (cs := []) (by simp) (settled ..) (Part.slipStep_feeds trip ((slipNeeded_eq _ _).trans hs) ho) nofun ?_
        rw [trayed]
        simp only [Part.setBin_of hb]
        rfl
    · intro holds
      have stuck : ∀ x ∈ q.conv.queue, q.placeable x.bin = false := by
        intro x hx
        obtain rfl : x = e := by simpa [q, hq] using hx
        exact Bool.eq_false_iff.mpr fun h => hroom ((takes hnone).mp h)
      let x : Part := { q with conv := { q.conv with queue := [e.tested false] } }
      have checked : q.choiceCheck = x.latchIf (!(e.placeable == some false)) .overflowFull := by
        refine (Part.choiceCheck_of_stuck (p := q) hv rfl stuck).trans ?_
        simp [x, q, hq, Conveyor.fullLevel]
      have held {cs : List Condition} (hcs : cs.length ≤ 1) (h : q.choiceCheck = cs.foldl Part.latch x) :
          exec .transportReady s = .next (cs.foldl State.latched holds) := by
        refine congrArg Host.Outcome.next (State.act_latches (ready.trans ?_) (by simpa [Part.Settled] using silent) hbusy.sending ?_)
        · rw [Part.examineIdle_of_latches h fun hi => hc hi.carriage]
          rfl
        · have := hbusy.room
          simp only [List.length_cons, List.length_nil]
          omega
      refine ⟨fun hmark => ?_, fun hmark => ?_⟩
      · exact held (cs := []) (by simp) (by simpa [Part.latchIf, hmark] using checked)
      · exact held (cs := [.overflowFull]) (by simp) (by simpa [Part.latchIf, hmark] using checked)

end Sys2Proof.Machine
end

section
/-! The carriage home: the end of STARTING and of a resume (R94, R135, R139): O45. -/

namespace Sys2Proof.Machine

/-- R100: bins that join the eject queue one after another. -/
theorem Part.foldl_appendEject (bs : List Nat) (p : Part) :
    bs.foldl Part.appendEject p =
      { p with conv := { p.conv with queue := p.conv.queue ++ bs.map fun b => { bin := b, placeable := none } } } := by
  induction bs generalizing p with
  | nil => simp
  | cons b bs ih => simp [ih, Part.appendEject]

/-- R135, R151: the low levels that the end of STARTING latches. -/
def Part.lowConditions (p : Part) : List Condition :=
  (if p.carriage.wire < 5000 then [.wireLow] else []) ++ (if p.conv.slipLow = true then [.slipLow] else [])

theorem Part.lowConditions_length (p : Part) : p.lowConditions.length ≤ 2 := by
  unfold Part.lowConditions
  (repeat' split) <;> simp

/-- R135: the ORPHAN bins, in ascending order. -/
def Part.orphans (p : Part) : List Nat := (List.range' 1 48).filter fun b => (p.bin b).state = .orphan

/-- R135: what the end of STARTING leaves before its checks, in AUTOMATIC or in SERVICE as `q`. -/
theorem Part.endStarting_eq {p q : Part}
    (hq : (if p.ctl.doorOpen || p.ctl.keyOn then p.enterService .started none else p.changeMode .automatic .started none) = q)
    (hbins : q.bins = p.bins) (hw : q.carriage.wire = p.carriage.wire) (hs : q.conv.slipLow = p.conv.slipLow) :
    p.endStarting = (p.lowConditions.foldl Part.latch { q with conv := { q.conv with
      queue := q.conv.queue ++ p.orphans.map fun b => { bin := b, placeable := none } } }).takeCheck.choiceCheck := by
  have orphans : (allBins.filter fun b => (q.bin b).state == .orphan) = p.orphans := by
    unfold Part.orphans Part.bin
    rw [hbins]
    rfl
  unfold Part.endStarting
  rw [hq]
  dsimp only
  rw [orphans, Part.foldl_appendEject]
  refine congrArg (fun q : Part => q.takeCheck.choiceCheck) ?_
  unfold Part.lowConditions
  rw [← hw, ← hs]
  by_cases h1 : q.carriage.wire < 5000 <;> by_cases h2 : q.conv.slipLow = true <;> simp [h1, h2, Part.latchIf, wireLowMark, Part.latch_eq]

/-- R140, R141: an idle part with nothing to park: the idle timer starts, whatever is latched. -/
theorem Part.examineIdle_of_latches_idle {x : Part} (cs : List Condition) (hm : x.ctl.mode = .automatic) (hi : x.IdleCond)
    (hp : x.ctl.parkPending = false) (ht : x.ctl.idleTimer = none) :
    (cs.foldl Part.latch x).examineIdle = cs.foldl Part.latch x.startIdleTimer := by
  have blind : Part.Blind Part.startIdleTimer := fun _ _ _ => rfl
  let y : Part := { x with faults := (cs.foldl Part.latch x).faults, out := (cs.foldl Part.latch x).out }
  have idle : y.IdleCond :=
    ⟨hi.current, hi.pending, hi.finishing, hi.tickets, hi.stitches, hi.ejects, hi.carriage, hi.conveyor⟩
  rw [← blind.foldl_latch, Part.foldl_latch_frame]
  refine (Part.examineIdle_of_idle (p := y) hm idle).trans ?_
  simp only [y, hp, ht, Option.isNone_none, Bool.false_eq_true, if_false, if_true]

/-- R102: with no set finished there is none to choose, whatever is latched. -/
theorem Part.choiceCheck_of_latches {x : Part} (cs : List Condition) (hq : x.conv.queue = []) :
    (cs.foldl Part.latch x).choiceCheck = cs.foldl Part.latch x := by
  rw [Part.foldl_latch_frame]
  exact Part.choiceCheck_of_empty hq

/-- R104: the slip feed started, whatever is latched. -/
theorem Part.slipStep_feeds_latches {x : Part} {t : Trip} (cs : List Condition) (h : x.conv.trip = some t)
    (hs : slipNeeded x.conv.tray.groups t.dest = true) (ho : x.conv.slipOut = false) :
    (cs.foldl Part.latch x).slipStep = cs.foldl Part.latch { x with conv := { x.conv with
      state := .slip, feeder := .feeding
      trip := some { t with header := some .pending, deadline := some (x.now + 1000) } } } := by
  let g (q : Part) : Part := { q with conv := { x.conv with
    state := .slip, feeder := .feeding
    trip := some { t with header := some .pending, deadline := some (x.now + 1000) } } }
  have blind : Part.Blind g := fun _ _ _ => rfl
  refine Eq.trans ?_ (blind.foldl_latch cs x)
  rw [Part.foldl_latch_frame]
  exact Part.slipStep_feeds h hs ho

/-- R104, R105: the trip begun unmarked, whatever is latched before SLIP_EMPTY. -/
theorem Part.slipStep_unmarked_latches {x : Part} {t : Trip} (cs : List Condition) (h : x.conv.trip = some t)
    (hs : slipNeeded x.conv.tray.groups t.dest = true) (ho : x.conv.slipOut = true) :
    (cs.foldl Part.latch x).slipStep =
      (cs ++ [Condition.slipEmpty]).foldl Part.latch (x.ejects { t with header := some .unmarked }) := by
  rw [List.foldl_append, ← (Part.ejects_blind _).foldl_latch, Part.foldl_latch_frame]
  exact Part.slipStep_unmarked h hs ho

/-! ## R102: the ORPHAN bins in the eject queue -/

/-- R104: the trip of an ORPHAN bin, its header not yet settled. -/
def orphanTrip (b : Nat) : Trip :=
  { bin := b, job := none, copy := none, dest := none, void := true, sheets := 0, stack := 0, stitches := 0, made := 0
    reason := none, h := 0, place := .overflow, header := none, emptied := false, proving := false, deadline := none }

/-- ORPHAN bin `b` chosen, the bins `bs` left in the queue. -/
def Part.orphanChosen (p : Part) (b : Nat) (bs : List Nat) : Part :=
  { p.setBin b { p.bin b with state := .ejecting } with
    conv := { p.conv with queue := bs.map fun d => { bin := d, placeable := none }, trip := some (orphanTrip b) } }

theorem Part.orphanChosen_blind (b : Nat) (bs : List Nat) : Part.Blind fun p => p.orphanChosen b bs := by
  intro p f o
  unfold Part.orphanChosen Part.setBin
  dsimp only
  split <;> rfl

/-- All the ORPHAN bins queued, none of them tested. -/
def Part.orphansHeld (p : Part) (bs : List Nat) : Part :=
  { p with conv := { p.conv with queue := bs.map fun d => { bin := d, placeable := some false } } }

theorem Part.orphansHeld_blind (bs : List Nat) : Part.Blind fun p => p.orphansHeld bs := fun _ _ _ => rfl

/-- The eject queue is the ORPHAN bins `bs`, the overflow tray empty of groups, and the choice check ready to be made. -/
structure Part.Orphaned (p : Part) (bs : List Nat) : Prop where
  mode   : p.ctl.mode = .automatic
  state  : p.conv.state = .idle
  queue  : p.conv.queue = bs.map fun b => { bin := b, placeable := none }
  range  : ∀ b ∈ bs, 1 ≤ b ∧ b ≤ 48
  nodup  : bs.Nodup
  sets   : ∀ b ∈ bs, (p.bin b).set = { void := true, plan := some voidPlan }
  groups : p.conv.tray.groups = []

section
variable {p : Part} {b : Nat} {bs : List Nat}

theorem Part.Orphaned.latches (h : p.Orphaned bs) (cs : List Condition) : (cs.foldl Part.latch p).Orphaned bs := by
  rw [Part.foldl_latch_frame]
  exact ⟨h.mode, h.state, h.queue, h.range, h.nodup, h.sets, h.groups⟩

theorem Part.Orphaned.destOf (h : p.Orphaned bs) (hb : b ∈ bs) : p.destOf b = none := by
  simp [Part.destOf, h.sets b hb]

theorem Part.Orphaned.placeOf (h : p.Orphaned bs) (hb : b ∈ bs) : p.placeOf b = .overflow :=
  Part.placeOf_iff.mpr fun k hk => by simp [h.destOf hb] at hk

theorem Part.Orphaned.placeable_iff (h : p.Orphaned bs) (hb : b ∈ bs) : p.placeable b = true ↔
    p.conv.tray.heldFull = false ∧ p.conv.tray.sets + 1 ≤ 80 ∧ p.conv.tray.stack + 150 ≤ 120000 := by
  rw [Part.placeable_eq, h.placeOf hb]
  refine trayAccepts_iff.trans ?_
  simp [h.sets b hb, h.groups]

/-- A tray found occupied holds them all. -/
theorem Part.Orphaned.choiceCheck_held (h : p.Orphaned (b :: bs)) (hfull : p.conv.tray.heldFull = true) :
    p.choiceCheck = (p.orphansHeld (b :: bs)).latch .overflowFull := by
  have stuck : ∀ e ∈ p.conv.queue, p.placeable e.bin = false := by
    intro e he
    rw [h.queue] at he
    obtain ⟨d, hd, rfl⟩ := List.mem_map.mp he
    exact Bool.eq_false_iff.mpr fun ht => absurd hfull (by rw [((h.placeable_iff hd).mp ht).1]; exact nofun)
  have anew : (!p.conv.queue.isEmpty && !p.conv.fullLevel) = true := by
    rw [h.queue]
    simp [Conveyor.fullLevel, h.queue]
  rw [Part.choiceCheck_of_stuck h.state h.mode stuck, anew, h.queue, List.map_map]
  rfl

/-- An empty tray takes the first of them. -/
theorem Part.Orphaned.choiceCheck_begins (h : p.Orphaned (b :: bs)) (hroom : p.conv.tray.heldFull = false)
    (hset : p.conv.tray.sets + 1 ≤ 80) (hstack : p.conv.tray.stack + 150 ≤ 120000) :
    p.choiceCheck = (p.orphanChosen b bs).slipStep := by
  let entry (d : Nat) : EjectEntry := { bin := d, placeable := none }
  have first : b ∈ b :: bs := List.mem_cons_self
  have hb := h.range b first
  have chosen := Part.choiceCheck_of_chosen (p := p) (pre := []) (post := bs.map entry) (e := entry b) h.state h.mode h.queue
    (by simpa [Function.comp_def, entry] using h.nodup) nofun ((h.placeable_iff first).mpr ⟨hroom, hset, hstack⟩) hb (.inl rfl)
  have unresolved : p.resolved b = none := by
    unfold Part.resolved
    rw [h.destOf first]
    rfl
  have unchanged : { p.out with notices := p.out.notices ++ [] } = p.out := by rw [List.append_nil]
  have begun : p.chosenFrom b (bs.map entry) = p.orphanChosen b bs := by
    simp only [Part.chosenFrom, Part.chosen, Part.tripOf, unresolved, h.placeOf first, h.destOf first, h.sets b first,
      Part.orphanChosen, Part.setBin_of hb, Option.map_none, Option.getD_none, List.map_nil, unchanged]
    rfl
  rw [h.placeOf first] at chosen
  exact chosen.trans (congrArg Part.slipStep begun)

end

/-- Settles O45: the end of STARTING by mode and ORPHAN bins, the end of a resume, and a carriage that does not home. -/
theorem carriageHomeEndsHoming : Obligations.CarriageHomeEndsHoming := by
  intro s occ hbusy hqc hqv ht hu hfin hv p orphans entry lows c home modeNow automatic
  have silent : p.out = { reset := false, notices := [] } := hbusy.settled
  let r : Part := { p with
    lines := { p.lines with occ := occ }
    carriage := { p.carriage with state := .idle, position := .home, target := none, deadline := none } }
  have lowered (t : State) : lows t = r.lowConditions.foldl State.latched t := by
    unfold Part.lowConditions
    by_cases h1 : p.carriage.wire < 5000 <;> by_cases h2 : p.conv.slipLow = true <;> simp [r, lows, h1, h2]
  have latched {q : Part} {ns : List Notice} {cs : List Condition} (hm : c.mode ≠ .halted) (hc : p.carriage.state = .homing)
      (hns : ns.length ≤ 1) (hcs : cs.length ≤ 3) (hq : q.Settled)
      (e : (p.sample occ).homed.examineIdle = cs.foldl Part.latch { q with out := { reset := false, notices := ns } }) :
      exec (.carriageHome occ) s = .next (cs.foldl State.latched (({ s with part := q } : State).queued ns)) := by
    have homes : (p.sample occ).onCarriageHome = (p.sample occ).homed.examineIdle := by
      unfold Part.onCarriageHome
      rw [show (p.sample occ).carriage.state = .homing from hc]
    refine congrArg Host.Outcome.next (State.act_latches (s := s.sample occ)
      ((Part.unlessHalted_of_ne (by exact hm) _).trans (homes.trans e)) hq hbusy.sending ?_)
    have : (s.sample occ).link.outbox.length + 4 ≤ 32 := hbusy.room
    omega
  have starting (hm : c.mode = .starting) : (p.sample occ).homed = r.endStarting := by
    unfold Part.homed
    simp only [show (p.sample occ).ctl.mode = .starting from hm]
    rfl
  -- STARTING ends in AUTOMATIC, before the choice check
  let started (bs : List Nat) : Part := { r with
    ctl := { c with mode := .automatic }
    out := { reset := false, notices := [modeNow .automatic .starting .started] }
    conv := { p.conv with queue := bs.map entry } }
  have running (hm : c.mode = .starting) (hd : c.doorOpen = false) (hk : c.keyOn = false) :
      (p.sample occ).homed = (r.lowConditions.foldl Part.latch (started orphans)).choiceCheck := by
    let q : Part := { r with
      ctl := { c with mode := .automatic }
      out := { reset := false, notices := [modeNow .automatic .starting .started] } }
    have changed : (if r.ctl.doorOpen || r.ctl.keyOn then r.enterService .started none else r.changeMode .automatic .started none) = q := by
      have off : ¬ (r.ctl.doorOpen || r.ctl.keyOn) = true := by
        simp [r, show p.ctl.doorOpen = _ from hd, show p.ctl.keyOn = _ from hk]
      rw [if_neg off]
      simp only [Part.changeMode, Part.raise, r, q, silent, show p.ctl.mode = _ from hm]
      rfl
    have queued : q.conv.queue ++ r.orphans.map entry = orphans.map entry := congrArg (· ++ orphans.map entry) hqv
    rw [starting hm, Part.endStarting_eq changed rfl rfl rfl, queued]
    refine congrArg Part.choiceCheck (Part.takeCheck_of_empty ?_)
    rw [Part.foldl_latch_frame]
    exact hqc
  have few : r.lowConditions.length ≤ 2 := r.lowConditions_length
  refine ⟨fun hc hm hd hk hcur hpend hvi hpark htimer htime horph => ?_, fun b bs hc hm hd hk hvi horph hsets hgroups => ?_, fun hc hm hdk => ?_, fun hc hm hf hcur => ?_, fun hc hm hf => ?_, fun h1 h2 => ?_⟩
  · refine (latched (q := { r with ctl := { c with mode := .automatic, idleTimer := some (p.now + 1000 * c.idleTime) } })
      (ns := [modeNow .automatic .starting .started]) (cs := r.lowConditions) (by rw [hm]; exact nofun) hc (by simp) (by omega)
      hbusy.settled ?_).trans ?_
    · rw [running hm hd hk, horph, Part.choiceCheck_of_latches _ rfl,
        Part.examineIdle_of_latches_idle (x := started []) _ rfl ⟨hcur, hpend, hfin, ht, hqc, rfl, rfl, hvi⟩ hpark htimer]
      refine congrArg (fun x => r.lowConditions.foldl Part.latch x) ?_
      simp only [Part.startIdleTimer, started, htime, if_false, List.map_nil, ← hqv]
      rfl
    · exact congrArg Host.Outcome.next (lowered _).symm
  · intro h
    let x : Part := started orphans
    have orphaned : x.Orphaned (b :: bs) := by
      rw [← horph]
      refine ⟨rfl, hvi, rfl, fun d hd => ?_, (List.nodup_range' (n := 48)).filter _, hsets, hgroups⟩
      have := List.mem_range'_1.mp (List.mem_of_mem_filter hd)
      omega
    have latching := orphaned.latches r.lowConditions
    have tray : (r.lowConditions.foldl Part.latch x).conv = x.conv := by rw [Part.foldl_latch_frame]
    refine ⟨fun hfull => ?_, fun hroom hset hstack => ?_⟩
    · have checked : (p.sample occ).homed = (r.lowConditions ++ [Condition.overflowFull]).foldl Part.latch (x.orphansHeld (b :: bs)) := by
        rw [running hm hd hk, latching.choiceCheck_held (by rw [tray]; exact hfull), List.foldl_append,
          ← (Part.orphansHeld_blind (b :: bs)).foldl_latch]
        rfl
      refine (latched (q := { r with
          ctl := { c with mode := .automatic, idleTimer := none }
          conv := { p.conv with queue := (b :: bs).map fun d => { bin := d, placeable := some false } } })
        (ns := [modeNow .automatic .starting .started]) (cs := r.lowConditions ++ [.overflowFull]) (by rw [hm]; exact nofun) hc
        (by simp) (by simp; omega) hbusy.settled ?_).trans ?_
      · exact Part.examineIdle_of_latches checked fun hi => nomatch hi.ejects
      · rw [List.foldl_append, horph]
        exact congrArg (fun t : State => Host.Outcome.next (t.latched .overflowFull)) (lowered _).symm
    · intro goes
      have hb := orphaned.range b List.mem_cons_self
      have begun : (p.sample occ).homed = (r.lowConditions.foldl Part.latch (x.orphanChosen b bs)).slipStep := by
        rw [running hm hd hk, latching.choiceCheck_begins (by rw [tray]; exact hroom) (by rw [tray]; exact hset)
          (by rw [tray]; exact hstack), ← (Part.orphanChosen_blind b bs).foldl_latch]
      have needed : slipNeeded (x.orphanChosen b bs).conv.tray.groups (orphanTrip b).dest = true := by
        rw [slipNeeded_eq, show (x.orphanChosen b bs).conv.tray.groups = [] from hgroups]
        rfl
      let gone (st : ConvState) (f : FeederState) (header : Header) (time : Nat) : Part := { r with
        ctl := { c with mode := .automatic, idleTimer := none }
        bins := (p.setBin b { p.bin b with state := .ejecting }).bins
        conv := { p.conv with
          queue := bs.map entry, state := st, feeder := f
          trip := some { orphanTrip b with header := some header, deadline := some (p.now + time) } } }
      have went (st : ConvState) (f : FeederState) (header : Header) (time : Nat) : goes st f header time =
          r.lowConditions.foldl State.latched
            (({ s with part := gone st f header time } : State).queued [modeNow .automatic .starting .started]) := by
        rw [← lowered]
        simp only [goes, gone, automatic, h, home, Part.setBin_of hb]
        rfl
      refine ⟨fun ho => ?_, fun ho => ?_⟩
      · rw [went]
        refine latched (q := gone .slip .feeding .pending 1000) (ns := [modeNow .automatic .starting .started])
          (by rw [hm]; exact nofun) hc (by simp) (by omega) hbusy.settled ?_
        refine (Part.examineIdle_of_latches (begun.trans (Part.slipStep_feeds_latches _ rfl needed ho))
          fun hi => nomatch hi.conveyor).trans (congrArg (fun x => r.lowConditions.foldl Part.latch x) ?_)
        simp only [gone, Part.orphanChosen, Part.setBin_of hb]
        rfl
      · rw [went]
        refine (latched (q := gone .carrying p.conv.feeder .unmarked 5000) (ns := [modeNow .automatic .starting .started])
          (cs := r.lowConditions ++ [.slipEmpty]) (by rw [hm]; exact nofun) hc (by simp) (by simp; omega) hbusy.settled ?_).trans ?_
        · refine (Part.examineIdle_of_latches (begun.trans (Part.slipStep_unmarked_latches _ rfl needed ho))
            fun hi => nomatch hi.conveyor).trans (congrArg (fun x => (r.lowConditions ++ [Condition.slipEmpty]).foldl Part.latch x) ?_)
          simp only [gone, Part.orphanChosen, Part.setBin_of hb, Part.ejects, orphanTrip, BitVec.sub_zero,
            BitVec.add_zero]
          rfl
        · rw [List.foldl_append]
          rfl
  · refine (latched (q := { r with
        ctl := { c with mode := .service, parkPending := false, idleTimer := none, wakingDeadline := none }
        path := { p.path with stopped := false, gate := .released }
        conv := { p.conv with queue := orphans.map entry } })
      (ns := [modeNow .service .starting .started]) (cs := r.lowConditions) (by rw [hm]; exact nofun) hc (by simp) (by omega)
      hbusy.settled ?_).trans (congrArg Host.Outcome.next (lowered _).symm)
    let q : Part := { r with
      ctl := { c with mode := .service, parkPending := false, idleTimer := none, wakingDeadline := none }
      path := { p.path with stopped := false, gate := .released }
      out := { reset := false, notices := [modeNow .service .starting .started] } }
    have entered : (if r.ctl.doorOpen || r.ctl.keyOn then r.enterService .started none else r.changeMode .automatic .started none) = q := by
      have on : (r.ctl.doorOpen || r.ctl.keyOn) = true := by simpa [r] using hdk
      rw [if_pos on, Part.enterService_of_rest _ _ (by exact ht) (by exact hu) (by exact hfin) (by exact (nofun : CarriageState.idle ≠ .travelling)) (by exact hv)]
      simp only [r, q, silent, show p.ctl.mode = _ from hm]
      rfl
    have queued : q.conv.queue ++ r.orphans.map entry = orphans.map entry := congrArg (· ++ orphans.map entry) hqv
    let x : Part := { q with conv := { q.conv with queue := orphans.map entry } }
    have done : (r.lowConditions.foldl Part.latch x).takeCheck.choiceCheck.examineIdle = r.lowConditions.foldl Part.latch x := by
      have mode : (r.lowConditions.foldl Part.latch x).ctl.mode = .service := by rw [Part.foldl_latch_frame]
      have off : (r.lowConditions.foldl Part.latch x).ctl.mode ≠ .automatic := by rw [mode]; exact nofun
      rw [Part.takeCheck_of_not fun h => absurd h off, Part.choiceCheck_of_not fun h => absurd h off,
        Part.examineIdle_of_not fun h => absurd h off]
      exact if_neg off
    rw [starting hm, Part.endStarting_eq entered rfl rfl rfl, queued]
    exact done
  · refine (latched (q := { r with ctl := { c with mode := .automatic, resumeFlag := false, idleTimer := none } })
      (ns := [modeNow .automatic .service .resumed]) (cs := []) (by rw [hm]; exact nofun) hc (by simp) (by simp)
      hbusy.settled ?_)
    let x : Part := { r with
      ctl := { c with mode := .automatic, resumeFlag := false }
      out := { reset := false, notices := [modeNow .automatic .service .resumed] } }
    have resumed : (p.sample occ).homed = x.takeCheck.choiceCheck := by
      unfold Part.homed
      simp only [show (p.sample occ).ctl.mode = .service from hm, show (p.sample occ).ctl.resumeFlag = true from hf, if_true]
      simp only [Part.completeResume, Part.changeMode, Part.raise, Part.sample, silent, show p.ctl.mode = _ from hm]
      rfl
    rw [resumed, Part.takeCheck_of_empty (by exact hqc), Part.choiceCheck_of_empty (by exact hqv),
      Part.examineIdle_of_running fun _ => by exact hcur]
    rfl
  · refine (latched (q := r) (ns := []) (cs := []) (by rw [hm]; exact nofun) hc (by simp) (by simp) hbusy.settled ?_).trans (by simp; rfl)
    have stays : (p.sample occ).homed = r := by
      unfold Part.homed
      simp only [show (p.sample occ).ctl.mode = .service from hm, show (p.sample occ).ctl.resumeFlag = false from hf]
      rfl
    have off : r.ctl.mode ≠ .automatic := by rw [show r.ctl.mode = .service from hm]; exact nofun
    rw [stays, Part.examineIdle_of_not fun h => absurd h off]
    exact (if_neg off).trans (congrArg (fun o => { r with out := o }) silent)
  · refine congrArg Host.Outcome.next (State.act_of (q := p.sample occ) (s := s.sample occ) ?_ hbusy.settled)
    have ignored : (p.sample occ).onCarriageHome = p.sample occ := by
      unfold Part.onCarriageHome
      split
      · exact absurd ‹_› h1
      · exact absurd ‹_› h2
      · rfl
      · rfl
      · rfl
    unfold Part.unlessHalted
    rw [show (s.sample occ).part = p.sample occ from rfl, ignored]
    exact ite_self _

end Sys2Proof.Machine
end

section
/-! The close of a job (R9, R11, R65, R86): O11. -/

namespace Sys2Proof.Machine

/-! ## R86: the place of a completed set in the stitch queue -/

theorem Part.mem_insertTail (p : Part) (b c : Nat) :
    c ∈ (p.insertTail b).carriage.queue ↔ c = b ∨ c ∈ p.carriage.queue := by
  have classes : c ∈ p.carriage.queue ↔ c ∈ p.stitchClasses.1 ∨ c ∈ p.stitchClasses.2 := by
    simp only [Part.stitchClasses, List.mem_filter, beq_iff_eq, bne_iff_ne, ← and_or_left]
    exact ⟨fun h => ⟨h, em _⟩, And.left⟩
  unfold Part.insertTail
  dsimp only
  rw [classes]
  split <;> simp only [List.mem_append, List.mem_singleton] <;> tauto

/-- Urgent bins `us` stand before the others `ns`, and the completed one at the end of its class. -/
theorem Part.insertTail_queue {p : Part} {us ns : List Nat} (b : Nat) (hq : p.carriage.queue = us ++ ns)
    (hus : ∀ c ∈ us, p.priorityOf c = .urgent) (hns : ∀ c ∈ ns, p.priorityOf c = .normal) :
    (p.insertTail b).carriage.queue = if p.priorityOf b = .urgent then us ++ b :: ns else us ++ ns ++ [b] := by
  have urgents : (us ++ ns).filter (fun b => p.priorityOf b == .urgent) = us := by
    rw [List.filter_append, List.filter_eq_self.mpr fun c hc => by simp [hus c hc],
      List.filter_eq_nil_iff.mpr fun c hc => by simp [hns c hc], List.append_nil]
  have normals : (us ++ ns).filter (fun b => p.priorityOf b != .urgent) = ns := by
    rw [List.filter_append, List.filter_eq_nil_iff.mpr fun c hc => by simp [hus c hc],
      List.filter_eq_self.mpr fun c hc => by simp [hns c hc], List.nil_append]
  simp only [Part.insertTail, Part.stitchClasses, hq, urgents, normals, List.append_assoc, List.singleton_append]

theorem Part.priorityOf_modJob (p : Part) (n : Nat) {f : Job → Job} (hn : ∀ j, (f j).number = j.number)
    (hp : ∀ j, (f j).priority = j.priority) (b : Nat) : (p.modJob n f).priorityOf b = p.priorityOf b := by
  have kept (m : Nat) : ((p.modJob n f).job? m).map Job.priority = (p.job? m).map Job.priority := by
    have number (i : Job) : (if i.number = n then f i else i).number = i.number := by split <;> simp [hn]
    have priority (i : Job) : (if i.number = n then f i else i).priority = i.priority := by split <;> simp [hp]
    simp only [Part.job?, Part.modJob, List.find?_map, Function.comp_def, number, Option.map_map, priority]
  have same : (p.modJob n f).binJob b = p.binJob b := rfl
  unfold Part.priorityOf
  rw [same]
  cases p.binJob b with
  | none => rfl
  | some m => exact congrArg (fun x : Option Priority => x.getD .normal) (kept m)

theorem Part.unidled_eq (p : Part) :
    p.unidled = { p with ctl := if p.ctl.mode = .automatic then { p.ctl with idleTimer := none } else p.ctl } := by
  unfold Part.unidled
  split <;> rfl

/-- R65, R67: a bin's set and state written one after the other. -/
theorem Part.setBinState_modSet {p : Part} {b : Nat} (hb : 1 ≤ b ∧ b ≤ 48) (f : SetRecord → SetRecord) (st : BinState) :
    (p.modSet b f).setBinState b st = p.setBin b { state := st, set := f (p.bin b).set } := by
  unfold Part.setBinState Part.modSet
  rw [Part.setBin_setBin, Part.bin_setBin_self _ _ (binOk_iff.mpr hb)]

/-! ## R65: a set with sheets completed -/

section
variable {p : Part} {b : Nat} {pattern : Pattern} {rule : DisorderRule}

theorem Part.completeBin_ejects (hb : 1 ≤ b ∧ b ≤ 48) (hsheets : (p.bin b).set.pages ≠ []) (hm : p.ctl.mode ≠ .parked) (hw : p.AtWork)
    {plan : Plan} (hplan : stitchPlan (p.bin b).set.pages.length (p.bin b).set.stack (p.bin b).set.foreign (p.bin b).set.disordered
      pattern rule = plan) (h : plan.stitches = 0) :
    p.completeBin pattern rule b = { p.setBin b { state := .ejectWait, set := { (p.bin b).set with plan := some plan } } with
      conv := { p.conv with queue := p.conv.queue ++ [{ bin := b, placeable := none }] } } := by
  let q := p.setBin b { state := .ejectWait, set := { (p.bin b).set with plan := some plan } }
  have completed : p.completeBin pattern rule b = q.joinEject b := by
    have filled : ¬ ((p.bin b).set.sheets = 0 && !(p.bin b).set.foreign) = true := by simp [SetRecord.sheets, hsheets]
    unfold Part.completeBin
    dsimp only [SetRecord.sheets]
    rw [hplan]
    refine (if_neg filled).trans ((if_pos h).trans ?_)
    rw [Part.setBinState_modSet hb]
  have ctl : q.ctl = p.ctl := by simp [q]
  have conv : (q.appendEject b).conv.state = p.conv.state := by simp [q, Part.appendEject]
  rw [completed, Part.joinEject_of _ (by rw [ctl]; exact hm),
    Part.choiceCheck_of_not fun ha => by rw [conv]; exact (hw (ctl ▸ ha)).2]
  simp only [Part.appendEject, q, Part.setBin_of hb]

theorem Part.completeBin_stitches (hb : 1 ≤ b ∧ b ≤ 48) (hsheets : (p.bin b).set.pages ≠ []) (hm : p.ctl.mode ≠ .parked) (hw : p.AtWork)
    {plan : Plan} (hplan : stitchPlan (p.bin b).set.pages.length (p.bin b).set.stack (p.bin b).set.foreign (p.bin b).set.disordered
      pattern rule = plan) (h : plan.stitches ≠ 0) (hout : hasCondition p.faults.attention .wireOut = true) :
    p.completeBin pattern rule b = { p.setBin b { state := .stitchWait, set := { (p.bin b).set with plan := some plan } } with
      carriage := { p.carriage with queue := (p.insertTail b).carriage.queue } } := by
  let q := p.setBin b { state := .stitchWait, set := { (p.bin b).set with plan := some plan } }
  have completed : p.completeBin pattern rule b = q.joinStitch b := by
    have filled : ¬ ((p.bin b).set.sheets = 0 && !(p.bin b).set.foreign) = true := by simp [SetRecord.sheets, hsheets]
    unfold Part.completeBin
    dsimp only [SetRecord.sheets]
    rw [hplan]
    refine (if_neg filled).trans ((if_neg h).trans ?_)
    rw [Part.setBinState_modSet hb]
  have priority (c : Nat) : q.priorityOf c = p.priorityOf c := by
    refine Part.priorityOf_congr (by simp [q]) ?_
    simp only [q, Part.bin_setBin]
    split
    · next h => rw [h.1]
    · rfl
  have inserted : q.insertTail b = { q with carriage := { p.carriage with queue := (p.insertTail b).carriage.queue } } := by
    simp only [Part.insertTail, Part.stitchClasses, priority]
    simp only [q, Part.setBin_of hb]
  have faults : q.faults = p.faults := by simp [q]
  have ctl : q.ctl = p.ctl := by simp [q]
  have carriage : q.carriage = p.carriage := by simp [q]
  have latched : (q.insertTail b).latchWireOut q.wireOutLevel = q.insertTail b :=
    Part.latchIf_of_has _ (by rw [inserted]; exact faults ▸ hout)
  have joined : q.joinStitch b = ((q.insertTail b).latchWireOut q.wireOutLevel).wake.takeCheck := rfl
  rw [completed, joined, latched, inserted, Part.wake_of_ne (by exact ctl ▸ hm)]
  refine Part.takeCheck_of_not fun ha => ?_
  exact (hw (ctl ▸ ha)).1

end

/-- R9, R11: a close without work in hand, of a job that holds one bin, takes effect. -/
theorem Part.closeJob_one {p : Part} {j : Job} {b : Nat} (hj : p.job? j.number = some j)
    (hidle : ∀ r ∈ p.runs.current.toList ++ p.runs.pending.toList ++ p.runs.finishing, r.job ≠ j.number) (hheld : j.heldBins = [b]) :
    p.closeJob j = Part.accept ((((p.modJob j.number fun i => { i with closeRequested := true, state := .finishing }).completeBin
      j.pattern j.disorder b).testEnd j.number).examineIdle) .ok .empty := by
  let asked : Part := p.modJob j.number fun i => { i with closeRequested := true }
  have idle : ¬ asked.workInHand j.number = true := fun h => by
    obtain ⟨x, hx, hn⟩ := (asked.workInHand_iff j.number).mp h
    exact hidle x hx hn
  have finishing := p.modJob_modJob j.number (f := fun i => { i with closeRequested := true })
    (g := fun i => { i with state := .finishing }) fun _ => rfl
  have listed : asked.job? j.number = some { j with closeRequested := true } := Part.job?_modJob (fun _ => rfl) hj
  have effect : asked.closeTakesEffect j.number = ((asked.setJobState j.number .finishing).completeBin j.pattern j.disorder b).testEnd
      j.number := by
    unfold Part.closeTakesEffect
    rw [listed]
    simp only [show Job.heldBins { j with closeRequested := true } = [b] from hheld, List.foldl_cons, List.foldl_nil]
  refine (if_neg idle : p.closeJob j = Part.accept (asked.closeTakesEffect j.number).examineIdle .ok .empty).trans ?_
  rw [effect, ← finishing]
  rfl

/-- Settles O11: the close of a job without work in hand, its bin's set completed by its plan. -/
theorem jobCloseTakesEffect : Obligations.JobCloseTakesEffect := by
  intro s tag f j b hfree hserve hpark hwork hf hn hj hst hidle hheld hpages hout r plan
  let p := s.part
  have mode := hserve.accepts (r := .jobClose) (by decide)
  have number : j.number = wordAt f 0 := Part.job?_number hj
  let k (i : Job) : Job := { i with closeRequested := true, state := .finishing }
  let q : Part := p.modJob j.number k
  have known : q.job? j.number = some (k j) := Part.job?_modJob (fun _ => rfl) (number ▸ hj)
  have held : b ∈ allBins ∧ ∃ e ∈ j.bins, e.bin = b ∧ e.released = false := by
    have := List.mem_filter.mp (show b ∈ j.heldBins by simp [hheld])
    simpa [Job.heldBins] using this
  have hb : 1 ≤ b ∧ b ≤ 48 := mem_allBins.mp held.1
  let t := q.completeBin j.pattern j.disorder b
  have form : ∃ st cc cv, t = { q.setBin b { state := st, set := { r with plan := some plan } } with carriage := cc, conv := cv } ∧
      (plan.stitches = 0 → st = .ejectWait ∧ cc = p.carriage ∧
        cv = { p.conv with queue := p.conv.queue ++ [{ bin := b, placeable := none }] }) ∧
      (plan.stitches ≠ 0 → st = .stitchWait ∧ cv = p.conv ∧
        cc = { p.carriage with queue := (q.insertTail b).carriage.queue }) := by
    by_cases h : plan.stitches = 0
    · exact ⟨.ejectWait, p.carriage, _, (Part.completeBin_ejects (p := q) hb hpages hpark hwork rfl h).trans (by simp [q, Part.modJob]; rfl),
        fun _ => ⟨rfl, rfl, rfl⟩, fun hs => absurd h hs⟩
    · exact ⟨.stitchWait, _, p.conv, (Part.completeBin_stitches (p := q) hb hpages hpark hwork rfl h hout).trans (by simp [q, Part.modJob]; rfl),
        fun hs => absurd hs h, fun _ => ⟨rfl, rfl, rfl⟩⟩
  obtain ⟨st, cc, cv, ht, ejects, stitches⟩ := form
  have jobs : t.jobs = q.jobs := by
    rw [ht]
    simp
  have ctl : t.ctl = p.ctl := by
    rw [ht]
    simp [q, Part.modJob]
  have conv : t.ctl.mode = .automatic → t.conv.state ≠ .idle := fun ha => by
    have busy : p.conv.state ≠ .idle := (hwork (ctl ▸ ha)).2
    by_cases h : plan.stitches = 0
    · rw [ht, (ejects h).2.2]
      exact busy
    · rw [ht, (stitches h).2.1]
      exact busy
  have goesOn : t.testEnd j.number = t := Part.testEnd_of_none fun i hi => by
    have same : t.job? j.number = q.job? j.number := by
      unfold Part.job?
      rw [jobs]
    obtain rfl : k j = i := Option.some.inj ((known.symm.trans same.symm).trans hi)
    obtain ⟨e, he, -, unreleased⟩ := held.2
    exact Part.endOf_none fun _ => .inl ⟨e, he, unreleased⟩
  have closed : p.closeJob j = Part.accept t.unidled .ok .empty := by
    rw [Part.closeJob_one (number ▸ hj) hidle hheld, goesOn, Part.examineIdle_of_not fun ha hi => conv ha hi.conveyor]
  have unidled : t.unidled = { p.unidled with jobs := t.jobs, bins := t.bins, carriage := t.carriage, conv := t.conv } := by
    rw [ht]
    simp only [Part.setBin_of hb, Part.unidled_eq]
    rfl
  refine ⟨t, ?_, ?_, ?_, ?_, ?_, ?_⟩
  · refine congrArg Host.Outcome.next ((hfree.accepted (f := f) (r := .jobClose) (q := t.unidled) (res := .ok) (fs := .empty) tag (by omega) mode (by simp [lengthOk, hf]) ?_ ?_).trans ?_)
    · refine Part.unidled_settled ?_
      rw [ht]
      simpa [q, Part.modJob, Part.Settled] using hfree.settled
    · simp only [List.mem_cons, List.not_mem_nil, or_false] at hst
      have named := Part.named_of_some hn hj
      rcases hst with hst | hst | hst <;> simp only [Part.act, Part.jobClose, named, hst] <;> exact closed
    · rw [unidled]
  · exact jobs
  · intro c hc
    rw [ht]
    exact (Part.bin_setBin_ne q _ hc).trans rfl
  · rw [ht]
    exact congrArg Bin.set (Part.bin_setBin_self q _ (binOk_iff.mpr hb))
  · intro h
    obtain ⟨hs, hc, hv⟩ := ejects h
    rw [ht]
    exact ⟨(congrArg Bin.state (Part.bin_setBin_self q _ (binOk_iff.mpr hb))).trans hs, hc, hv⟩
  · intro h
    obtain ⟨hs, hv, hc⟩ := stitches h
    have queue (c : Nat) : c ∈ t.carriage.queue ↔ c = b ∨ c ∈ p.carriage.queue := by
      rw [ht, hc]
      exact q.mem_insertTail b c
    have place : t.carriage.queue = (q.insertTail b).carriage.queue := by rw [ht, hc]
    refine ⟨?_, ?_, ?_, (queue b).mpr (.inl rfl), fun c hne => by rw [queue c]; simp [hne, p], fun us ns hjob hq hus hns => ?_⟩
    · rw [ht]
      exact (congrArg Bin.state (Part.bin_setBin_self q _ (binOk_iff.mpr hb))).trans hs
    · rw [ht]
      exact hv
    · rw [ht]
      exact hc.trans (by rw [hc])
    · have priority (c : Nat) : q.priorityOf c = p.priorityOf c := p.priorityOf_modJob (f := k) j.number (fun _ => rfl) (fun _ => rfl) c
      have own : q.priorityOf b = j.priority := by
        have job : (q.bin b).set.job = some j.number := hjob
        simp [Part.priorityOf, Part.binJob, job, known, k]
      rw [place, Part.insertTail_queue b (by exact hq) (fun c hc => (priority c).trans (hus c hc))
        (fun c hc => (priority c).trans (hns c hc)), own]

end Sys2Proof.Machine
end

section
/-! The cancellation of a job (R15 to R18, R67): O13. -/

namespace Sys2Proof.Machine

/-! ## R17: the test for the end of a job -/

theorem Part.testEnd_of_some {p : Part} {n : Nat} {j : Job} {o : JobOutcome} (hj : p.job? n = some j) (ho : p.endOf j = some o) :
    p.testEnd n = (p.raise (.jobDone n o j.copies j.tallies)).dropJob n := by
  simp only [Part.testEnd, hj, ho]

theorem Part.testEnd_queue (p : Part) (n : Nat) : (p.testEnd n).jobs.queue = p.jobs.queue := by
  unfold Part.testEnd
  split
  · rfl
  · split <;> rfl

/-- A job that has ended is not there to end again. -/
theorem Part.testEnd_testEnd (p : Part) (n : Nat) : (p.testEnd n).testEnd n = p.testEnd n := by
  cases hj : p.job? n with
  | none =>
    have same : p.testEnd n = p := Part.testEnd_of_none (by simp [hj])
    rw [same, same]
  | some j =>
    cases ho : p.endOf j with
    | none =>
      have same : p.testEnd n = p := Part.testEnd_of_none (by simp [hj, ho])
      rw [same, same]
    | some o =>
      have gone : (p.testEnd n).job? n = none := by
        rw [Part.testEnd_of_some hj ho]
        simp [Part.job?, Part.dropJob]
      exact Part.testEnd_of_none (by simp [gone])

/-! ## R67: one bin voided -/

/-- A bin without sheets, on their way or in it, that gathers a copy. -/
def Bin.frees (r : Bin) : Bool := r.state = .assigned ∧ r.set.inboundSheets = 0

/-- A bin whose set goes to the eject queue void. -/
def Bin.leaves (r : Bin) : Bool := (r.state = .filling ∧ r.set.inboundSheets = 0) ∨ r.state = .stitchWait

/-- A bin whose set counts as void. -/
def Bin.counts (r : Bin) : Bool := r.state ∈ [BinState.filling, .stitchWait]

/-- A bin that waits for its inbound sheets. -/
def Bin.waits (r : Bin) : Bool := r.state ∈ [BinState.assigned, .filling] ∧ r.set.inboundSheets ≠ 0

/-- R67: the bin record after voiding. -/
def Bin.voided (r : Bin) : Bin :=
  if r.frees then Bin.free
  else if r.leaves then { state := .ejectWait, set := { r.set with void := true, plan := some voidPlan } }
  else if r.waits then { r with set := { r.set with void := true } }
  else r

theorem Bin.voided_of_frees {r : Bin} (h : r.frees = true) : r.voided = Bin.free := if_pos h

theorem Bin.voided_of_leaves {r : Bin} (h : r.leaves = true) :
    r.voided = { state := .ejectWait, set := { r.set with void := true, plan := some voidPlan } } := by
  have stays : ¬ r.frees = true := by
    intro hf
    simp only [Bin.leaves, Bin.frees, decide_eq_true_eq] at h hf
    simp [hf.1] at h
  exact (if_neg stays).trans (if_pos h)

theorem Bin.voided_of_waits {r : Bin} (h : r.waits = true) : r.voided = { r with set := { r.set with void := true } } := by
  have held : ¬ r.frees = true ∧ ¬ r.leaves = true := by
    simp only [Bin.waits, Bin.frees, Bin.leaves, decide_eq_true_eq, List.mem_cons, List.not_mem_nil, or_false] at h ⊢
    obtain ⟨hs | hs, hw⟩ := h <;> simp [hs, hw]
  exact (if_neg held.1).trans ((if_neg held.2).trans (if_pos h))

theorem Bin.voided_of_other {r : Bin} (h1 : ¬ r.frees = true) (h2 : ¬ r.leaves = true) (h3 : ¬ r.waits = true) : r.voided = r :=
  (if_neg h1).trans ((if_neg h2).trans (if_neg h3))

/-- R67, R2, R3: a job record after the bins `freed` are freed and the sets of `counted` counted as void. -/
def Job.voiding (j : Job) (freed counted : List Nat) : Job :=
  { j with
    bins := j.bins.map fun e => if e.bin ∈ freed then { e with released := true } else e
    tallies := { j.tallies with empty := j.tallies.empty + freed.length, voided := j.tallies.voided + counted.length } }

theorem Job.voiding_voiding (j : Job) (as bs cs ds : List Nat) :
    (j.voiding as bs).voiding cs ds = j.voiding (as ++ cs) (bs ++ ds) := by
  have entries : ((j.bins.map fun e => if e.bin ∈ as then { e with released := true } else e).map fun e =>
      if e.bin ∈ cs then { e with released := true } else e) =
      j.bins.map fun e => if e.bin ∈ as ++ cs then { e with released := true } else e := by
    rw [List.map_map]
    refine List.map_congr_left fun e _ => ?_
    by_cases h1 : e.bin ∈ as <;> by_cases h2 : e.bin ∈ cs <;> simp [h1, h2]
  simp only [Job.voiding, entries, List.length_append, Nat.add_assoc]

/-- R67: bin `b` of job `n` voided, the end of the job not yet tested. -/
def Part.voidedBin (p : Part) (n b : Nat) : Part :=
  let r := p.bin b
  { p.setBin b r.voided with
    jobs := { p.jobs with jobs := p.jobs.jobs.map fun i =>
      if i.number = n then i.voiding (if r.frees then [b] else []) (if r.counts then [b] else []) else i }
    carriage := { p.carriage with queue := if r.state = .stitchWait then p.carriage.queue.filter fun c => c ≠ b else p.carriage.queue }
    conv := { p.conv with queue := p.conv.queue ++ if r.leaves then [{ bin := b, placeable := none }] else [] } }

theorem Part.setBin_bin (p : Part) (b : Nat) : p.setBin b (p.bin b) = p := by
  refine (Part.setBin_bins p b _).trans ?_
  have same : (p.setBin b (p.bin b)).bins = p.bins := Part.bins_ext fun c => by
    rw [Part.bin_setBin]
    split
    · next h => rw [h.1]
    · rfl
  rw [same]

theorem Part.tallyVoided_of {p : Part} {n b : Nat} (hjob : (p.bin b).set.job = some n) :
    p.tallyVoided b = { p with
      jobs := { p.jobs with
        jobs := p.jobs.jobs.map fun i => if i.number = n then i.voiding [] [b] else i } } := by
  have named (i : Job) : ((p.bin b).set.job = some i.number) = (i.number = n) := by
    rw [hjob, Option.some.injEq]
    exact propext eq_comm
  simp only [Part.tallyVoided_eq, named]
  simp [Job.voiding]

theorem Part.voidBin_eq {p : Part} {n b : Nat} (hb : 1 ≤ b ∧ b ≤ 48) (hm : p.ctl.mode ≠ .parked)
    (hc : p.ctl.mode = .automatic → p.conv.state ≠ .idle) (hq : p.jobs.queue = []) (hjob : (p.bin b).set.job = some n) :
    p.voidBin b = if (p.bin b).frees then (p.voidedBin n b).testEnd n else p.voidedBin n b := by
  rcases hr : p.bin b with ⟨st, set⟩
  have job : set.job = some n := by rw [hr] at hjob; exact hjob
  have same : p.setBin b { state := st, set := set } = p := by rw [← hr]; exact p.setBin_bin b
  have unchanged (i : Job) : i.voiding [] [] = i := by simp [Job.voiding]
  unfold Part.voidBin
  simp only [hr]
  cases st with
  | assigned =>
    by_cases hw : set.inboundSheets = 0
    · have frees : Bin.frees { state := .assigned, set := set } = true := by simp [Bin.frees, hw]
      have released (i : Job) : (i.release b).tally Tallies.addEmpty = i.voiding [b] [] := by
        simp [Job.release, Job.tally, Tallies.addEmpty, Job.voiding]
      have freed : ((p.setBin b Bin.free).modJob n fun i => (i.release b).tally Tallies.addEmpty) = p.voidedBin n b := by
        simp only [Part.voidedBin, hr, frees, if_true, Part.modJob, Part.setBin_jobs, Bin.voided, Bin.leaves, Bin.counts, hw]
        simp [released, Part.setBin_of hb]
      have emptied : p.freeEmpty b = ((p.voidedBin n b).testEnd n).grantCheck := by
        rw [← freed]
        unfold Part.freeEmpty Part.freeBin Part.binJob
        simp only [hr, job]
      have queue : ((p.voidedBin n b).testEnd n).jobs.queue = [] := (Part.testEnd_queue ..).trans hq
      simp only [hw, frees, if_true]
      simpa using emptied.trans (Part.grantCheck_of_empty queue)
    · simp [Part.voidedBin, hr, Bin.frees, Bin.voided, Bin.leaves, Bin.waits, Bin.counts, hw, Part.modSet, unchanged, Part.setBin_of hb]
  | filling =>
    have counted := Part.tallyVoided_of hjob
    have kept : (p.tallyVoided b).bin b = { state := .filling, set := set } := by rw [counted]; exact hr
    by_cases hw : set.inboundSheets = 0
    · have gone := Part.finishVoid_of hb kept (by rw [counted]; exact hm) (by rw [counted]; exact hc)
      rw [counted] at gone
      simp [Part.voidedBin, hr, Bin.frees, Bin.voided, Bin.leaves, Bin.counts, hw, counted, gone, Part.setBin_of hb]
    · rw [counted] at kept
      simp [Part.voidedBin, hr, Bin.frees, Bin.voided, Bin.leaves, Bin.waits, Bin.counts, hw, counted, Part.modSet, kept, Part.setBin_of hb]
  | stitchWait =>
    have counted : (p.leaveStitch b).tallyVoided b = _ := Part.tallyVoided_of (n := n) hjob
    have kept : ((p.leaveStitch b).tallyVoided b).bin b = { state := .stitchWait, set := set } := by rw [counted]; exact hr
    have gone := Part.finishVoid_of hb kept (by rw [counted]; exact hm) (by rw [counted]; exact hc)
    have stays : Bin.frees { state := .stitchWait, set := set } = false := by simp [Bin.frees]
    rw [stays, gone, counted]
    simp [Part.voidedBin, hr, stays, Bin.voided, Bin.leaves, Bin.counts, Part.setBin_of hb, Part.leaveStitch]
  | free | stitching | ejectWait | ejecting | orphan =>
    simp [Part.voidedBin, hr, Bin.frees, Bin.voided, Bin.leaves, Bin.waits, Bin.counts, unchanged, same]

/-! ## R67: the bins of a job voided in order -/

/-- The bins `bs` gather sets of job `n`, each still held by it, where no job waits for bins and the conveyor makes no choice. -/
structure Part.Voidable (p : Part) (n : Nat) (bs : List Nat) : Prop where
  mode    : p.ctl.mode ≠ .parked
  conv    : p.ctl.mode = .automatic → p.conv.state ≠ .idle
  queue   : p.jobs.queue = []
  nodup   : bs.Nodup
  range   : ∀ b ∈ bs, 1 ≤ b ∧ b ≤ 48
  job     : ∀ b ∈ bs, (p.bin b).set.job = some n
  entries : ∀ j, p.job? n = some j → ∀ b ∈ bs, ∃ e ∈ j.bins, e.bin = b ∧ e.released = false

theorem Part.bin_voidedBin {p : Part} {n b : Nat} (hb : 1 ≤ b ∧ b ≤ 48) (c : Nat) :
    (p.voidedBin n b).bin c = if c = b then (p.bin b).voided else p.bin c := by
  have read : (p.voidedBin n b).bin c = (p.setBin b (p.bin b).voided).bin c := rfl
  rw [read, Part.bin_setBin]
  simp [binOk_iff.mpr hb]

theorem Part.job?_voidedBin {p : Part} {n b : Nat} {j : Job} (h : (p.voidedBin n b).job? n = some j) :
    ∃ i, p.job? n = some i ∧ j = i.voiding (if (p.bin b).frees then [b] else []) (if (p.bin b).counts then [b] else []) := by
  let f (i : Job) : Job := i.voiding (if (p.bin b).frees then [b] else []) (if (p.bin b).counts then [b] else [])
  have number (i : Job) : (if i.number = n then f i else i).number = i.number := by split <;> rfl
  have found : (p.voidedBin n b).job? n = (p.job? n).map fun i => if i.number = n then f i else i := by
    simp only [Part.job?, Part.voidedBin, List.find?_map, Function.comp_def]
    simp only [f] at number
    simp only [number, f]
  obtain ⟨i, hi, rfl⟩ := Option.map_eq_some_iff.mp (found.symm.trans h)
  exact ⟨i, hi, if_pos (Part.job?_number hi)⟩

theorem Part.Voidable.next {p : Part} {n b : Nat} {bs : List Nat} (h : p.Voidable n (b :: bs)) : (p.voidedBin n b).Voidable n bs := by
  obtain ⟨fresh, nodup⟩ := List.nodup_cons.mp h.nodup
  have hb := h.range b List.mem_cons_self
  have other {c : Nat} (hc : c ∈ bs) : c ≠ b := fun e => fresh (e ▸ hc)
  have ctl : (p.voidedBin n b).ctl = p.ctl := by simp [Part.voidedBin]
  refine ⟨by rw [ctl]; exact h.mode, by rw [ctl]; exact h.conv, h.queue, nodup, fun c hc => h.range c (List.mem_cons_of_mem _ hc),
    fun c hc => ?_, fun j hj c hc => ?_⟩
  · rw [Part.bin_voidedBin hb, if_neg (other hc)]
    exact h.job c (List.mem_cons_of_mem _ hc)
  · obtain ⟨i, hi, rfl⟩ := Part.job?_voidedBin hj
    obtain ⟨e, he, hbin, hrel⟩ := h.entries i hi c (List.mem_cons_of_mem _ hc)
    refine ⟨e, List.mem_map.mpr ⟨e, he, if_neg ?_⟩, hbin, hrel⟩
    split
    · rw [List.mem_singleton, hbin]
      exact other hc
    · exact List.not_mem_nil

/-- R17, R18: the job can end with its last bin alone, so that its end is tested once. -/
theorem Part.foldl_voidBin {p : Part} {n : Nat} {bs : List Nat} (h : p.Voidable n bs) :
    (bs.foldl Part.voidBin p).testEnd n = (bs.foldl (fun p b => p.voidedBin n b) p).testEnd n := by
  induction bs generalizing p with
  | nil => rfl
  | cons b bs ih =>
    have hb := h.range b List.mem_cons_self
    have step := Part.voidBin_eq hb h.mode h.conv h.queue (h.job b List.mem_cons_self)
    rw [List.foldl_cons, List.foldl_cons, step]
    split
    · cases bs with
      | nil => exact Part.testEnd_testEnd ..
      | cons c cs =>
        have goesOn : (p.voidedBin n b).testEnd n = p.voidedBin n b := Part.testEnd_of_none fun j hj => by
          obtain ⟨e, he, -, hrel⟩ := h.next.entries j hj c List.mem_cons_self
          exact Part.endOf_none fun _ => .inl ⟨e, he, hrel⟩
        rw [goesOn]
        exact ih h.next
    · exact ih h.next

/-- The bins of `bs` voided: what stands in each, and what the job, the stitch queue and the eject queue receive. -/
theorem Part.foldl_voidedBin {p : Part} {n : Nat} {bs : List Nat} (h : p.Voidable n bs) :
    ∃ t : Part,
      bs.foldl (fun p b => p.voidedBin n b) p = { p with
        bins := t.bins
        jobs := { p.jobs with
          jobs := p.jobs.jobs.map fun i =>
            if i.number = n then i.voiding (bs.filter fun b => (p.bin b).frees) (bs.filter fun b => (p.bin b).counts) else i }
        carriage := { p.carriage with
          queue := p.carriage.queue.filter fun c => ¬ (c ∈ bs ∧ (p.bin c).state = .stitchWait) }
        conv := { p.conv with
          queue := p.conv.queue ++ (bs.filter fun b => (p.bin b).leaves).map fun b => { bin := b, placeable := none } } } ∧
      (∀ b ∈ bs, t.bin b = (p.bin b).voided) ∧ ∀ b, b ∉ bs → t.bin b = p.bin b := by
  induction bs generalizing p with
  | nil => exact ⟨p, by simp [Job.voiding], nofun, fun b _ => rfl⟩
  | cons b bs ih =>
    obtain ⟨t, form, inside, outside⟩ := ih h.next
    obtain ⟨fresh, -⟩ := List.nodup_cons.mp h.nodup
    have hb := h.range b List.mem_cons_self
    have other {c : Nat} (hc : c ∈ bs) : c ≠ b := fun e => fresh (e ▸ hc)
    have read {c : Nat} (hc : c ∈ bs) : (p.voidedBin n b).bin c = p.bin c := by rw [Part.bin_voidedBin hb, if_neg (other hc)]
    refine ⟨t, ?_, fun c hc => ?_, fun c hc => ?_⟩
    · have same {f : Bin → Bool} : (bs.filter fun c => f ((p.voidedBin n b).bin c)) = bs.filter fun c => f (p.bin c) :=
        List.filter_congr fun c hc => by rw [read hc]
      have first (f : Bin → Bool) : (b :: bs).filter (fun c => f (p.bin c)) =
          (if f (p.bin b) then [b] else []) ++ bs.filter fun c => f (p.bin c) := by
        rw [List.filter_cons]
        split <;> rfl
      have stitches : ((p.voidedBin n b).carriage.queue.filter fun c => ¬ (c ∈ bs ∧ ((p.voidedBin n b).bin c).state = .stitchWait)) =
          p.carriage.queue.filter fun c => ¬ (c ∈ b :: bs ∧ (p.bin c).state = .stitchWait) := by
        have drops (c : Nat) (hne : c ≠ b) : (c ∈ bs ∧ ((p.voidedBin n b).bin c).state = .stitchWait) ↔
            (c ∈ b :: bs ∧ (p.bin c).state = .stitchWait) := by
          rw [Part.bin_voidedBin hb, if_neg hne, List.mem_cons, or_iff_right hne]
        by_cases hs : (p.bin b).state = .stitchWait
        · have queue : (p.voidedBin n b).carriage.queue = p.carriage.queue.filter fun c => c ≠ b := if_pos hs
          rw [queue, List.filter_filter]
          refine List.filter_congr fun c _ => ?_
          by_cases hne : c = b
          · simp [hne, hs]
          · simp [hne, drops c hne]
        · have queue : (p.voidedBin n b).carriage.queue = p.carriage.queue := if_neg hs
          rw [queue]
          refine List.filter_congr fun c _ => ?_
          by_cases hne : c = b
          · simp [hne, hs, fresh]
          · simp only [drops c hne]
      have jobs : ((p.voidedBin n b).jobs.jobs.map fun i =>
            if i.number = n then
              i.voiding (bs.filter fun c => ((p.voidedBin n b).bin c).frees) (bs.filter fun c => ((p.voidedBin n b).bin c).counts)
            else i) =
          p.jobs.jobs.map fun i =>
            if i.number = n then
              i.voiding ((b :: bs).filter fun c => (p.bin c).frees) ((b :: bs).filter fun c => (p.bin c).counts)
            else i := by
        rw [same, same, first Bin.frees, first Bin.counts]
        simp only [Part.voidedBin, List.map_map]
        refine List.map_congr_left fun i _ => ?_
        by_cases hn : i.number = n
        · have kept (as bs : List Nat) : (i.voiding as bs).number = n := hn
          simp only [Function.comp_apply, hn, if_true, kept, Job.voiding_voiding]
        · simp only [Function.comp_apply, hn, if_false]
      have ejects : (p.voidedBin n b).conv.queue ++ (bs.filter fun c => ((p.voidedBin n b).bin c).leaves).map (fun c => ({ bin := c, placeable := none } : EjectEntry)) =
          p.conv.queue ++ ((b :: bs).filter fun c => (p.bin c).leaves).map fun c => { bin := c, placeable := none } := by
        rw [same, first Bin.leaves, List.map_append, ← List.append_assoc]
        congr 1
        simp only [Part.voidedBin]
        split <;> rfl
      rw [List.foldl_cons, form, stitches, jobs, ejects]
      simp only [Part.voidedBin, Part.setBin_of hb]
    · rcases List.mem_cons.mp hc with rfl | hc
      · rw [outside c fresh, Part.bin_voidedBin hb, if_pos rfl]
      · rw [inside c hc, read hc]
    · rw [outside c fun hm => hc (List.mem_cons_of_mem _ hm), Part.bin_voidedBin hb,
        if_neg fun (e : c = b) => hc (e ▸ List.mem_cons_self)]

/-! ## R16: a granted job cancelled -/

/-- R16, R31: job `n` CANCELLING, its PENDING run withdrawn and its CURRENT run draining, its bins as they were. -/
def Part.cancelled (p : Part) (n : Nat) : Part :=
  { p with
    jobs := (p.setJobState n .cancelling).jobs
    runs := { p.runs with
      pending := p.runs.pending.filter fun r : Run => r.job ≠ n
      current := p.runs.current.map fun r : Run => if r.job = n then { r with state := .draining } else r } }

theorem Part.cancelJob_eq (p : Part) (j : Job) :
    p.cancelJob j = ((j.heldBins.foldl Part.voidBin (p.cancelled j.number)).testEnd j.number,
      (p.runs.pending.filter fun r : Run => r.job = j.number).map Run.id) := by
  unfold Part.cancelJob
  dsimp only
  rw [Part.withdrawPendingOf_eq]
  rfl

theorem Part.hasStartedRun_cancelled (p : Part) (n m : Nat) : (p.cancelled n).hasStartedRun m = p.hasStartedRun m := by
  unfold Part.hasStartedRun Part.cancelled
  cases p.runs.current with
  | none => rfl
  | some r => by_cases h : r.job = n <;> simp [h]

/-- R65: a bin that a job holds, and the entry that holds it. -/
theorem Job.mem_heldBins {j : Job} {b : Nat} : b ∈ j.heldBins ↔ (1 ≤ b ∧ b ≤ 48) ∧ ∃ e ∈ j.bins, e.bin = b ∧ e.released = false := by
  simp [Job.heldBins, mem_allBins]

theorem Job.heldBins_nodup (j : Job) : j.heldBins.Nodup := allBins_nodup.filter _

theorem Part.onConveyor_iff {p : Part} {n : Nat} : p.onConveyor n = true ↔ ∃ c ∈ p.conv.trip, c.job = some n := by
  unfold Part.onConveyor
  cases p.conv.trip <;> simp

/-- R67: the bins that a cancellation frees, and those whose sets it counts as void. -/
def Part.freedBins (p : Part) (j : Job) : List Nat := j.heldBins.filter fun b => (p.bin b).frees

def Part.countedBins (p : Part) (j : Job) : List Nat := j.heldBins.filter fun b => (p.bin b).counts

/-- R16, R67: job `j` cancelled, its bins voided as they stand in `t`, its end not yet tested. -/
def Part.tornDown (p : Part) (j : Job) (t : Part) : Part :=
  { p.cancelled j.number with
    bins := t.bins
    jobs := { p.jobs with
      jobs := p.jobs.jobs.map fun i =>
        if i.number = j.number then
          Job.voiding { i with state := .cancelling } (p.freedBins j) (p.countedBins j)
        else i }
    carriage := { p.carriage with
      queue := p.carriage.queue.filter fun c => ¬ (c ∈ j.heldBins ∧ (p.bin c).state = .stitchWait) }
    conv := { p.conv with
      queue := p.conv.queue ++ (j.heldBins.filter fun b => (p.bin b).leaves).map fun b => { bin := b, placeable := none } } }

section
variable {p : Part} {j : Job}

theorem Part.job?_cancelled (hj : p.job? j.number = some j) :
    (p.cancelled j.number).job? j.number = some { j with state := .cancelling } :=
  Part.job?_modJob (fun _ => rfl) hj

theorem Part.cancelJob_tornDown (hj : p.job? j.number = some j) (hm : p.ctl.mode ≠ .parked)
    (hc : p.ctl.mode = .automatic → p.conv.state ≠ .idle) (hq : p.jobs.queue = [])
    (hjobs : ∀ b ∈ j.heldBins, (p.bin b).set.job = some j.number) :
    ∃ t : Part, p.cancelJob j =
        ((p.tornDown j t).testEnd j.number, (p.runs.pending.filter fun r : Run => r.job = j.number).map Run.id) ∧
      (∀ b ∈ j.heldBins, t.bin b = (p.bin b).voided) ∧ ∀ b, b ∉ j.heldBins → t.bin b = p.bin b := by
  have voidable : (p.cancelled j.number).Voidable j.number j.heldBins :=
    ⟨hm, hc, hq, j.heldBins_nodup, fun b hb => (Job.mem_heldBins.mp hb).1, hjobs, fun i hi b hb => by
      obtain rfl := Option.some.inj ((Part.job?_cancelled hj).symm.trans hi)
      exact (Job.mem_heldBins.mp hb).2⟩
  obtain ⟨t, form, inside, outside⟩ := Part.foldl_voidedBin voidable
  have jobs : ((p.cancelled j.number).jobs.jobs.map fun i =>
        if i.number = j.number then i.voiding (p.freedBins j) (p.countedBins j) else i) =
      p.jobs.jobs.map fun i =>
        if i.number = j.number then Job.voiding { i with state := .cancelling } (p.freedBins j) (p.countedBins j) else i := by
    simp only [Part.cancelled, Part.setJobState, Part.modJob, List.map_map]
    refine List.map_congr_left fun i _ => ?_
    by_cases hn : i.number = j.number <;> simp [hn]
  have torn : j.heldBins.foldl (fun p b => p.voidedBin j.number b) (p.cancelled j.number) = p.tornDown j t := by
    refine form.trans ?_
    unfold Part.tornDown
    rw [← jobs]
    rfl
  refine ⟨t, ?_, inside, outside⟩
  rw [Part.cancelJob_eq, Part.foldl_voidBin voidable, torn]

theorem Part.job?_tornDown (hj : p.job? j.number = some j) (t : Part) :
    (p.tornDown j t).job? j.number = some (Job.voiding { j with state := .cancelling } (p.freedBins j) (p.countedBins j)) :=
  Part.job?_modJob (p := p) (f := fun i => Job.voiding { i with state := .cancelling } (p.freedBins j) (p.countedBins j))
    (fun _ => rfl) hj

theorem Part.hasStartedRun_tornDown (t : Part) : (p.tornDown j t).hasStartedRun j.number = p.hasStartedRun j.number :=
  Part.hasStartedRun_cancelled ..

/-- R17, R18: the job goes on while a bin, a run or the conveyor holds a set of it. -/
theorem Part.testEnd_tornDown_of_goesOn (hj : p.job? j.number = some j) (t : Part)
    (h : (∃ e ∈ j.bins, e.released = false ∧ e.bin ∉ p.freedBins j) ∨ p.hasStartedRun j.number = true ∨ p.onConveyor j.number = true) :
    (p.tornDown j t).testEnd j.number = p.tornDown j t := by
  refine Part.testEnd_of_none fun i hi => Part.endOf_none fun _ => ?_
  obtain rfl := Option.some.inj ((Part.job?_tornDown hj t).symm.trans hi)
  rcases h with ⟨e, he, hrel, hfreed⟩ | hrun | htrip
  · exact .inl ⟨e, List.mem_map.mpr ⟨e, he, if_neg hfreed⟩, hrel⟩
  · exact .inr (.inr ⟨rfl, (Part.hasStartedRun_tornDown t).trans hrun⟩)
  · exact .inr (.inl htrip)

/-- R17, R18: the job ends where nothing holds a set of it; none of its sets was counted as void. -/
theorem Part.testEnd_tornDown_of_ends (hj : p.job? j.number = some j) (t : Part)
    (hall : ∀ e ∈ j.bins, e.released = true ∨ e.bin ∈ p.freedBins j) (hrun : p.hasStartedRun j.number = false)
    (htrip : p.onConveyor j.number = false) :
    (p.tornDown j t).testEnd j.number =
      ((p.tornDown j t).raise (.jobDone j.number .cancelled j.copies
        { j.tallies with empty := j.tallies.empty + (p.freedBins j).length })).dropJob j.number := by
  have uncounted : (p.countedBins j).length = 0 := by
    refine List.length_eq_zero_iff.mpr (List.filter_eq_nil_iff.mpr fun b hb => ?_)
    obtain ⟨-, e, he, rfl, hrel⟩ := Job.mem_heldBins.mp hb
    have freed := (List.mem_filter.mp ((hall e he).resolve_left (by simp [hrel]))).2
    simp only [Bin.frees, decide_eq_true_eq] at freed
    simp [Bin.counts, freed.1]
  have ends : (p.tornDown j t).endOf (Job.voiding { j with state := .cancelling } (p.freedBins j) (p.countedBins j)) =
      some .cancelled := by
    have released : (Job.voiding { j with state := .cancelling } (p.freedBins j) (p.countedBins j)).allReleased = true := by
      refine List.all_eq_true.mpr fun e he => ?_
      obtain ⟨d, hd, rfl⟩ := List.mem_map.mp he
      split
      · rfl
      · next hfreed => exact (hall d hd).resolve_right hfreed
    have idle : (p.tornDown j t).hasStartedRun j.number = false := (Part.hasStartedRun_tornDown t).trans hrun
    have off : (p.tornDown j t).onConveyor j.number = false := htrip
    have number (i : Job) (as bs : List Nat) : (i.voiding as bs).number = i.number ∧ (i.voiding as bs).state = i.state := ⟨rfl, rfl⟩
    simp [Part.endOf, released, number, off, idle]
  rw [Part.testEnd_of_some (Part.job?_tornDown hj t) ends]
  simp [Job.voiding, uncounted]

end

/-- Settles O13: a waiting job dropped, and a granted one cancelled with its bins voided. -/
theorem jobCancelByState : Obligations.JobCancelByState := by
  intro s tag f j hfree hserve hwork hf hn hj
  have mode := hserve.accepts (r := .jobCancel) (by decide)
  have hl : lengthOk .jobCancel f = true := by simp [lengthOk, hf]
  have named := Part.named_of_some hn hj
  have number : j.number = wordAt f 0 := Part.job?_number hj
  have settled := hfree.settled
  have granted (hst : j.state ∈ [JobState.active, .holding, .held, .closing, .finishing]) :
      s.part.jobCancel f = Part.accept (s.part.cancelJob j).1.examineIdle .ok (.withdrawn (s.part.cancelJob j).2) := by
    simp only [List.mem_cons, List.not_mem_nil, or_false] at hst
    unfold Part.jobCancel
    rcases hst with hst | hst | hst | hst | hst <;> simp only [named, hst]
  have listed : s.part.job? j.number = some j := number ▸ hj
  refine ⟨fun hst hhead => ?_, fun hst hheld hrest => ?_, fun hst hroom hpark hq hjobs => ?_, fun hst => ?_⟩
  · refine congrArg Host.Outcome.next (hfree.accepted tag (by omega) mode hl (by exact settled) ?_)
    have dropped : s.part.jobCancel f = Part.accept (s.part.dropWaiting j.number) .ok (.withdrawn none) := by
      unfold Part.jobCancel
      simp only [named, hst]
    exact dropped.trans (congrArg (fun x => Part.accept x .ok (.withdrawn none)) (if_neg hhead))
  · have kept : j.heldBins.foldl Part.voidBin (s.part.cancelled j.number) = s.part.cancelled j.number := by
      have each (b : Nat) (hb : b ∈ j.heldBins) : (s.part.cancelled j.number).voidBin b = s.part.cancelled j.number := by
        have state : ((s.part.cancelled j.number).bin b).state ∈ [BinState.stitching, .ejectWait, .ejecting] := hrest b hb
        simp only [List.mem_cons, List.not_mem_nil, or_false] at state
        unfold Part.voidBin
        rcases state with h | h | h <;> simp only [h]
      generalize j.heldBins = bs at each
      induction bs with
      | nil => rfl
      | cons b bs ih =>
        rw [List.foldl_cons, each b List.mem_cons_self]
        exact ih fun c hc => each c (List.mem_cons_of_mem _ hc)
    have goesOn : (s.part.cancelled j.number).testEnd j.number = s.part.cancelled j.number := Part.testEnd_of_none fun i hi => by
      obtain rfl := Option.some.inj ((Part.job?_cancelled listed).symm.trans hi)
      obtain ⟨e, he, hrel⟩ := hheld
      exact Part.endOf_none fun _ => .inl ⟨e, he, hrel⟩
    have done : s.part.cancelJob j = (s.part.cancelled j.number, (s.part.runs.pending.filter fun r : Run => r.job = j.number).map Run.id) := by rw [Part.cancelJob_eq, kept, goesOn]
    have idle : (s.part.cancelled j.number).examineIdle = (s.part.cancelled j.number).unidled :=
      Part.examineIdle_of_not fun ha hi => (hwork ha).2 hi.conveyor
    refine congrArg Host.Outcome.next (hfree.accepted tag (by omega) mode hl ?_ ((granted hst).trans ?_))
    · exact Part.unidled_settled settled
    · rw [done, idle]
      simp only [Part.unidled_eq]
      rfl
  · intro p waits freed marked voided counted told started carried cancels
    have frees : p.freedBins j = freed := List.filter_congr fun b _ => by simp [Bin.frees, waits, p]
    have waiting : (j.heldBins.filter fun b => (p.bin b).waits) = marked :=
      List.filter_congr fun b _ => by simp [Bin.waits, waits, p]
    have leaves : (j.heldBins.filter fun b => (p.bin b).leaves) = voided :=
      List.filter_congr fun b _ => by simp [Bin.leaves, waits, p]
    have startedRun : p.hasStartedRun j.number = true ↔ started := Part.hasStartedRun_iff
    have conveyed : p.onConveyor j.number = true ↔ carried := Part.onConveyor_iff
    obtain ⟨t, cancelled, inside, outside⟩ := Part.cancelJob_tornDown listed hpark (fun ha => (hwork ha).2) hq hjobs
    have torn : p.tornDown j t = { p.cancelled j.number with
        bins := t.bins
        jobs := { p.jobs with jobs := told }
        carriage := { p.carriage with
          queue := p.carriage.queue.filter fun c => ¬ (c ∈ j.heldBins ∧ (p.bin c).state = .stitchWait) }
        conv := { p.conv with queue := p.conv.queue ++ voided.map fun b => { bin := b, placeable := none } } } := by
      unfold Part.tornDown
      rw [frees, leaves]
      rfl
    have silent : (p.cancelled j.number).out = { reset := false, notices := [] } := settled
    have concludes {js : List Job} {ns : List Notice} (hns : ns.length ≤ 1)
        (h : (p.tornDown j t).testEnd j.number =
          { p.tornDown j t with jobs := { p.jobs with jobs := js }, out := { reset := false, notices := ns } }) : cancels js ns := by
      have mem {b : Nat} {g : Bin → Bool} (hb : b ∈ j.heldBins.filter fun b => g (p.bin b)) :
          t.bin b = (p.bin b).voided ∧ g (p.bin b) = true := by
        obtain ⟨hb, hg⟩ := List.mem_filter.mp hb
        exact ⟨inside b hb, hg⟩
      refine ⟨t, ?_, fun b hb => ?_, fun b hb => ?_, fun b hb => ?_, fun b h1 h2 h3 => ?_⟩
      · refine congrArg Host.Outcome.next (hfree.acceptedRaising tag (by omega) mode hl ?_ ((granted hst).trans ?_) (.inr (by omega)))
        · rw [Part.unidled_eq]
          exact settled
        · have stepped : ((p.tornDown j t).testEnd j.number).examineIdle = ((p.tornDown j t).testEnd j.number).unidled := by
            rw [h]
            exact Part.examineIdle_of_not fun ha hi => (hwork ha).2 hi.conveyor
          rw [cancelled]
          refine congrArg (fun x => Part.accept x .ok _) (stepped.trans ?_)
          rw [h, torn]
          simp only [Part.unidled_eq]
          rfl
      · obtain ⟨read, h⟩ := mem (by rw [← frees] at hb; exact hb)
        rw [read, Bin.voided_of_frees h]
        rfl
      · obtain ⟨read, h⟩ := mem (by rw [← waiting] at hb; exact hb)
        rw [read, Bin.voided_of_waits h]
      · obtain ⟨read, h⟩ := mem (by rw [← leaves] at hb; exact hb)
        rw [read, Bin.voided_of_leaves h]
        rfl
      · rw [← frees] at h1
        rw [← waiting] at h2
        rw [← leaves] at h3
        by_cases hb : b ∈ j.heldBins
        · have none {g : Bin → Bool} (h : b ∉ j.heldBins.filter fun b => g (p.bin b)) : ¬ g (p.bin b) = true :=
            fun hg => h (List.mem_filter.mpr ⟨hb, hg⟩)
          rw [inside b hb]
          exact Bin.voided_of_other (none h1) (none h3) (none h2)
        · exact outside b hb
    refine ⟨fun hgo => concludes (by simp) ?_, fun hall hstarted hcarried => concludes (by simp) ?_⟩
    · rw [Part.testEnd_tornDown_of_goesOn listed t (by rw [frees, startedRun, conveyed]; exact hgo), torn]
      simp only [silent]
    · rw [Part.testEnd_tornDown_of_ends listed t (by rw [frees]; exact hall) (Bool.eq_false_iff.mpr (mt startedRun.mp hstarted))
        (Bool.eq_false_iff.mpr (mt conveyed.mp hcarried)), frees, torn]
      simp only [Part.raise, Part.dropJob, silent]
      rfl
  · refine congrArg Host.Outcome.next (hfree.refused tag (by omega) mode hl ?_)
    simp only [Part.act, Part.jobCancel, named, hst]

end Sys2Proof.Machine
end

section
/-! RESUME: the audit, the conveyor check and the settlement of a held set (R70 to R72, R98, R114, R139): O23. -/

namespace Sys2Proof.Machine

/-! ## R114: the check of a kept trip -/

section
variable {p : Part} {c : Trip}

theorem Part.conveyorCheck_of_none (h : p.conv.trip = none) : p.conveyorCheck = (p, .noTrip) := by
  unfold Part.conveyorCheck
  rw [h]

/-- A slip step begun again. -/
theorem Part.conveyorCheck_of_pending (h : p.conv.trip = some c) (hh : c.header = some .pending)
    (ho : p.lines.binOccupied c.bin = true) :
    p.conveyorCheck =
      (Part.slipStep { p with conv := { p.conv with trip := some { c with proving := false } } }, .slipResumed) := by
  unfold Part.conveyorCheck
  rw [h]
  simp only [hh, ho, if_true, Part.modTrip, h, Option.map_some]

/-- R114: the set of trip `c` reported taken from its bin, the trip not yet ended. -/
def Part.setTaken (p : Part) (c : Trip) : Part :=
  { p.setBin c.bin Bin.free with
    jobs := p.jobs.released c.job c.bin
    path := { p.path with account := p.path.account.binsToRemoved c.sheets }
    out := { p.out with notices := p.out.notices ++ [c.report .lostInReturn] } }

/-- A set taken from its bin during a slip step. -/
theorem Part.conveyorCheck_of_taken (h : p.conv.trip = some c) (hh : c.header = some .pending)
    (ho : p.lines.binOccupied c.bin = false) (hp : c.place = .overflow) (hq : p.jobs.queue = []) (hb : 1 ≤ c.bin ∧ c.bin ≤ 48)
    (hj : c.job = (p.bin c.bin).set.job) : p.conveyorCheck = ((p.setTaken c).endTrip c, .setTaken) := by
  have released : ((p.modAccount fun a => a.binsToRemoved c.sheets).releaseBin c.bin).raise (c.report .lostInReturn) = p.setTaken c := by
    rw [Part.releaseBin_onConveyor (p := p.modAccount fun a => a.binsToRemoved c.sheets) h hj, Part.grantCheck_of_empty (by exact hq)]
    simp only [Part.setTaken, Part.setBin_of hb]
    rfl
  unfold Part.conveyorCheck
  rw [h]
  simp only [hh, ho, if_true, Part.loseSet, released, hp]
  rfl

theorem Part.job?_setTaken {j : Job} (hj : c.job = some j.number) (hn : p.job? j.number = some j) :
    (p.setTaken c).job? j.number = some (j.release c.bin) := by
  have same : (p.setTaken c).job? j.number = (p.modJob j.number fun i => i.release c.bin).job? j.number := by
    simp only [Part.job?, Part.setTaken, JobTable.released, Part.modJob, hj, Option.some.injEq, eq_comm (a := j.number)]
    rfl
  exact same.trans (Part.job?_modJob (fun _ => rfl) hn)

/-- A carry that proves, its bin emptied before or still occupied. -/
theorem Part.conveyorCheck_of_proving (h : p.conv.trip = some c) (hh : c.header ≠ some .pending)
    (ho : c.emptied = true ∨ p.lines.binOccupied c.bin = true) :
    p.conveyorCheck = ({ p with conv := { p.conv with
      state := .carrying, trip := some { c with proving := true, deadline := some (p.now + 5000) } } }, .proving) := by
  unfold Part.conveyorCheck
  rw [h]
  dsimp only
  rw [if_neg hh, if_neg (by rcases ho with ho | ho <;> simp [ho])]
  simp only [Part.startProving, h, Option.map_some]
  rfl

/-- A carry that proves, its bin found emptied. -/
theorem Part.conveyorCheck_of_emptied (h : p.conv.trip = some c) (hh : c.header ≠ some .pending) (he : c.emptied = false)
    (ho : p.lines.binOccupied c.bin = false) :
    p.conveyorCheck =
      ((Part.releaseBin { p with conv := { p.conv with trip := some { c with emptied := true } } } c.bin).startProving, .proving) := by
  unfold Part.conveyorCheck
  rw [h]
  dsimp only
  rw [if_neg hh, if_pos (by simp [he, ho])]
  simp only [Part.modTrip, h, Option.map_some]

end

/-! ## R98: the settlement of a held set -/

section
variable {p : Part} {h : Held}

theorem Part.settleHeld_of_none (hh : p.carriage.held = none) : p.settleHeld = (p, .none) := by
  unfold Part.settleHeld
  rw [hh]

theorem Part.settleHeld_of_jammed (hh : p.carriage.held = some h) (hc : h.cond = .jammed) (hb : 1 ≤ h.bin ∧ h.bin ≤ 48)
    (hm : p.ctl.mode = .service) :
    p.settleHeld = ({ p.setBin h.bin { state := .ejectWait, set := { (p.bin h.bin).set with
        plan := some { (p.bin h.bin).set.planned with wire := 0, reason := some .stitchJam } } } with
      carriage := { p.carriage with held := none }
      conv := { p.conv with queue := p.conv.queue ++ [{ bin := h.bin, placeable := none }] } }, .givenUp) := by
  let q : Part := p.setBin h.bin { state := .ejectWait, set := { (p.bin h.bin).set with
    plan := some { (p.bin h.bin).set.planned with wire := 0, reason := some .stitchJam } } }
  have ctl : q.ctl = p.ctl := by simp [q]
  have given : p.giveUp h.bin = q.appendEject h.bin := by
    unfold Part.giveUp
    dsimp only
    rw [Part.setBinState_modSet hb, Part.joinEject_of _ (by rw [Part.setBin_ctl, hm]; exact nofun)]
    refine Part.choiceCheck_of_not fun ha => ?_
    have service : q.ctl.mode = .service := by rw [ctl]; exact hm
    exact absurd (service.symm.trans ha) (by decide)
  unfold Part.settleHeld
  rw [hh]
  simp only [hc, given, q, Part.appendEject, Part.setBin_of hb]

/-- The stitches counted for the returned set: a cycle still in progress is broken off (notes/assumptions/10.md). -/
def Part.keptStitches (p : Part) (h : Held) : Nat :=
  if h.cond = .taken ∧ p.carriage.state = .stitching then (p.bin h.bin).set.made - 1 else (p.bin h.bin).set.made

theorem Part.settleHeld_of_returned {us ns : List Nat} (hh : p.carriage.held = some h) (hc : h.cond ≠ .jammed) (hb : 1 ≤ h.bin ∧ h.bin ≤ 48)
    (hout : hasCondition p.faults.attention .wireOut = true) (hq : p.carriage.queue = us ++ ns)
    (hus : ∀ b ∈ us, p.priorityOf b = .urgent) (hns : ∀ b ∈ ns, p.priorityOf b = .normal) :
    p.settleHeld = ({ p.setBin h.bin { state := .stitchWait, set := { (p.bin h.bin).set with made := p.keptStitches h } } with
      carriage := { p.carriage with
        held := none
        queue := if p.priorityOf h.bin = .urgent then h.bin :: (us ++ ns) else us ++ h.bin :: ns } }, .returned) := by
  let set : SetRecord := { (p.bin h.bin).set with made := p.keptStitches h }
  let q : Part := p.setBin h.bin { state := .stitchWait, set := set }
  have priority (b : Nat) : q.priorityOf b = p.priorityOf b := by
    refine Part.priorityOf_congr (by simp [q]) ?_
    simp only [q, Part.bin_setBin]
    split
    · next h => rw [h.1]
    · rfl
  have carriage : q.carriage = p.carriage := by simp [q]
  have faults : q.faults = p.faults := by simp [q]
  have back (r : Part) (hr : r.setBinState h.bin .stitchWait = q) : r.returnHeld h.bin = { q with carriage := { p.carriage with
      queue := if p.priorityOf h.bin = .urgent then h.bin :: (us ++ ns) else us ++ h.bin :: ns } } := by
    have inserted := Part.insertHead_eq h.bin (carriage ▸ hq) (fun b hb => (priority b).trans (hus b hb))
      fun b hb => (priority b).trans (hns b hb)
    rw [priority, carriage] at inserted
    have returns : r.returnHeld h.bin =
      ((r.setBinState h.bin .stitchWait).insertHead h.bin).latchWireOut (r.setBinState h.bin .stitchWait).wireOutLevel := rfl
    rw [returns, hr, inserted]
    exact Part.latchIf_of_has _ (by exact faults ▸ hout)
  have whole (e : p.keptStitches h = (p.bin h.bin).set.made) : p.setBinState h.bin .stitchWait = q := by
    simp only [q, set, e]
    rfl
  unfold Part.settleHeld
  rw [hh]
  cases hs : h.cond with
  | jammed => exact absurd hs hc
  | interrupted =>
    simp only [hs, back p (whole (by simp [Part.keptStitches, hs]))]
    rfl
  | taken =>
    by_cases hst : p.carriage.state = .stitching
    · have broken : (p.modSet h.bin fun s => { s with made := s.made - 1 }).setBinState h.bin .stitchWait = q := by
        rw [Part.setBinState_modSet hb]
        simp only [q, set, Part.keptStitches, hs, hst, and_self, if_true]
      simp only [hs, hst, if_true, back _ broken]
      rfl
    · simp only [hs, hst, if_false, back p (whole (by simp [Part.keptStitches, hst]))]
      rfl

end

/-! ## R70 to R72: what the audit leaves -/

/-- A bin that does not exist holds no set. -/
theorem Part.bin_of_gone {p : Part} {occ : Occupancy} {b : Nat} (h : p.isGone occ b = true ∨ p.isOrphanGone occ b = true) :
    b ∈ p.setsGone occ ∨ b ∈ p.orphansGone occ := by
  have exists_ : b ∈ allBins := by
    by_contra hb
    have free : p.bin b = Bin.free := dif_neg fun hr => hb (mem_allBins.mpr hr)
    simp [Part.isGone, Part.isOrphanGone, free, Bin.free] at h
  exact h.imp (fun h => Part.mem_setsGone.mpr ⟨exists_, h⟩) fun h => Part.mem_orphansGone.mpr ⟨exists_, h⟩

/-- Settles O23: the checks of RESUME, and what its audit, the check of a trip and the settlement of a held set find. -/
theorem resumeStartsHoming : Obligations.ResumeStartsHoming := by
  intro s tag occ hfree hm t answers
  have free : Free t := hfree.sensed .resume occ
  have mode : t.part.ctl.mode ∈ acceptingModes .resume := by
    rw [show t.part.ctl.mode = .service from hm]
    decide
  have accepted {q : Part} {r : Result} {f : ReplyFields} (hq : q.Settled) (e : t.part.resume = q.accept r f) :
      exec (.resume tag [] occ) s = .next (({ t with part := q } : State).answered .resume tag r f) :=
    congrArg Host.Outcome.next (free.accepted tag (by simp) mode rfl hq e)
  have refused {r : Result} (e : t.part.resume = t.part.refuse r) : answers t r .empty :=
    congrArg Host.Outcome.next (free.refused tag (by simp) mode rfl e)
  have idle (hf : s.part.ctl.resumeFlag = false) : ¬ t.part.ctl.resumeFlag = true := Bool.eq_false_iff.mp hf
  have closed (hd : s.part.ctl.doorOpen = false) (hk : s.part.ctl.keyOn = false) :
      ¬ (t.part.ctl.doorOpen || t.part.ctl.keyOn) = true := by
    have doors : t.part.ctl = s.part.ctl := rfl
    simp [doors, hd, hk]
  refine ⟨fun hf => ?_, fun hf hd => ?_, fun hf hd hk hcycle => ?_, fun hf hd hk hcycle => ?_⟩
  · exact accepted free.settled (if_pos hf)
  · exact refused ((if_neg (idle hf)).trans (if_pos ((Bool.or_eq_true ..).mpr hd)))
  · exact refused ((if_neg (idle hf)).trans ((if_neg (closed hd hk)).trans (if_pos hcycle)))
  · intro p home
    let q : Part := { p with ctl := { p.ctl with resumeFlag := true } }
    have settled : p.Settled := free.settled
    have resumes {r r' r'' : Part} {a : Audit} {f : Finding} {st : Settlement} (audited : q.audit = (r, a))
        (checked : r.conveyorCheck = (r', f)) (settled : r'.settleHeld = (r'', st)) :
        p.resume = r''.startHoming.accept .ok (.resumed a.emptied a.foreign a.orphan a.freed f st) := by
      have begins : p.resume = p.beginResume :=
        (if_neg (idle hf)).trans ((if_neg (closed hd hk)).trans (if_neg fun h => h hcycle))
      rw [begins]
      unfold Part.beginResume
      simp only [show Part.audit { p with ctl := { p.ctl with resumeFlag := true } } = _ from audited, checked, settled]
    have homes {x : Part} {f : ReplyFields} (hx : x.Settled) (now : x.now = p.now)
        (e : p.resume = Part.accept (Part.startHoming { x with ctl := q.ctl }) .ok f) : answers (home x) .ok f := by
      refine accepted (q := (home x).part) hx (e.trans (congrArg (fun x => Part.accept x .ok f) ?_))
      simp only [Part.startHoming, home, now]
      rfl
    refine ⟨fun hagree htrip hheld => ?_, fun htrip hq hheld hends => ?_, fun c hagree hheld hq htrip hb hjob => ?_,
      fun h hagree htrip hheld hb hout => ?_⟩
    · exact homes settled rfl (resumes (Part.audit_of_agree hagree) (Part.conveyorCheck_of_none htrip) (Part.settleHeld_of_none hheld))
    · have auditable : q.Auditable q.lines.occ := by
        refine ⟨rfl, hm, hq, fun j hj hst => ?_⟩
        obtain ⟨e, he, hrel, hset, horphan⟩ := hends j hj (by simpa using hst)
        refine ⟨e, he, hrel, fun b hb hbin => ?_⟩
        rcases Part.bin_of_gone hb with h | h
        · exact hset (hbin ▸ h)
        · exact horphan (hbin ▸ h)
      have spec := Part.audit_spec auditable
      cases audited : q.audit with | mk u found =>
      rw [audited] at spec
      obtain ⟨form, audits, counts⟩ := spec
      have trip : u.conv.trip = none := by
        rw [audits.conv]
        exact htrip
      have held : u.carriage.held = none := by
        rw [audits.carriage]
        refine Option.filter_eq_none_iff.mpr fun h hh => ?_
        exact fun hn => of_decide_eq_true hn (hheld h hh)
      refine ⟨u, ⟨audits.emptied, audits.freed, audits.foreign, audits.orphan, audits.kept, audits.jobs, audits.path,
        audits.carriage, audits.conv⟩, ?_⟩
      let x : Part := { p with jobs := u.jobs, path := u.path, bins := u.bins, carriage := u.carriage, conv := u.conv }
      have resumed := resumes audited (Part.conveyorCheck_of_none trip) (Part.settleHeld_of_none held)
      have form : u = { x with ctl := q.ctl } := form
      have counts : found = _ := counts
      rw [form, counts] at resumed
      exact homes (x := x) settled rfl resumed
    · intro a occupied finds freed
      have audited : q.audit = (q, {}) := Part.audit_of_agree hagree
      -- the trip checked, nothing held
      have checks {x : Part} {f : Finding} (hx : x.Settled) (now : x.now = p.now)
          (checked : q.conveyorCheck = ({ x with ctl := q.ctl }, f)) (held : x.carriage.held = none) : finds x f :=
        homes hx now (resumes audited checked (Part.settleHeld_of_none held))
      refine ⟨fun hh ho => ?_, fun hh ho hplace hroom j hj hjn => ?_, fun hh => ?_⟩
      · intro carries joins
        let c' : Trip := { c with proving := false }
        let w : Part := { q with conv := { q.conv with trip := some c' } }
        have checked : q.conveyorCheck = (w.slipStep, .slipResumed) := Part.conveyorCheck_of_pending htrip hh ho
        have stepped {y : Part} (e : w.slipStep = y) : q.conveyorCheck = (y, .slipResumed) := by rw [checked, e]
        have needed : slipNeeded w.conv.tray.groups c'.dest = (p.conv.tray.groups.getLast?.map Group.key != some c.dest) :=
          slipNeeded_eq ..
        have joined (h : joins) : slipNeeded w.conv.tray.groups c'.dest = false := by rw [needed, show _ = _ from h]; simp
        have apart (h : ¬ joins) : slipNeeded w.conv.tray.groups c'.dest = true := by rw [needed]; exact bne_iff_ne.mpr h
        refine ⟨fun hjoins => ?_, fun hjoins hout hlatched => ?_, fun hjoins hout => ?_⟩
        · exact checks settled rfl (stepped (Part.slipStep_joins rfl (joined hjoins))) hheld
        · exact checks settled rfl (stepped ((Part.slipStep_unmarked rfl (apart hjoins) hout).trans (Part.latch_of_has hlatched))) hheld
        · let x : Part := { p with conv := { p.conv with
            state := .slip, feeder := .feeding
            trip := some { c with header := some .pending, proving := false, deadline := some (p.now + 1000) } } }
          exact checks (x := x) settled rfl (stepped (Part.slipStep_feeds rfl (apart hjoins) hout)) hheld
      · intro taken
        have silent : p.out = { reset := false, notices := [] } := settled
        let w : Part := q.setTaken c
        have checked : q.conveyorCheck = (w.endTrip c, .setTaken) := Part.conveyorCheck_of_taken htrip hh ho hplace hq hb hjob
        have known : w.job? j.number = some (j.release c.bin) := Part.job?_setTaken hj hjn
        have ctl : w.ctl = q.ctl := by simp [w, Part.setTaken]
        have service : w.ctl.mode = .automatic → w.conv.queue = [] := fun ha => by
          have mode : w.ctl.mode = .service := by rw [ctl]; exact hm
          exact absurd (mode.symm.trans ha) (by decide)
        have takes {jobs : List Job} {ns : List Notice} (hns : ns.length ≤ 1)
            (e : w.endTrip c = { w.unloaded with
              jobs := { p.jobs with jobs := jobs }, out := { reset := false, notices := c.report .lostInReturn :: ns } }) :
            taken jobs ns := by
          have held : (w.endTrip c).carriage.held = none := by
            rw [e]
            simpa [w, Part.setTaken, Part.unloaded] using hheld
          have resumed := resumes audited checked (Part.settleHeld_of_none held)
          rw [e] at resumed
          let x : Part := { freed with
            jobs := { p.jobs with jobs := jobs }
            path := { p.path with account := { a with
              inBins := a.inBins - BitVec.ofNat 32 c.sheets, removed := a.removed + BitVec.ofNat 32 c.sheets } }
            conv := { p.conv with state := .idle, trip := none } }
          refine congrArg Host.Outcome.next (free.acceptedRaising (q := (home x).part) tag (by simp) mode rfl ?_ (resumed.trans ?_)
            (.inr ?_))
          · simpa [home, x, freed, Part.Settled] using settled
          · simp only [home, x, w, freed, Part.setTaken, Part.unloaded, Part.startHoming, Part.setBin_of hb]
            rfl
          · have link : t.link.outbox.length + 2 ≤ 32 := hroom
            simp only [List.length_cons]
            omega
        refine ⟨fun hgo => takes (by simp) ?_, fun o hall hends => takes (by simp) ?_⟩
        · have goesOn : w.GoesOn (j.release c.bin) := by
            rcases hgo with hst | ⟨e, he, hrel, hbin⟩
            · exact .inr (.inl hst)
            · exact .inl ⟨e, List.mem_map.mpr ⟨e, he, if_neg hbin⟩, hrel⟩
          rw [Part.endTrip_of_goesOn (j := j.release c.bin) hj known service goesOn]
          simp only [w, freed, Part.setTaken, Part.unloaded, Part.setBin_of hb, show q.out = _ from silent, List.nil_append]
          rfl
        · have ends : w.EndsWith (j.release c.bin) o := by
            refine ⟨fun e he => ?_, ?_⟩
            · obtain ⟨d, hd, rfl⟩ := List.mem_map.mp he
              split
              · rfl
              · next hne => exact (hall d hd).resolve_right hne
            · refine hends.imp_right fun ⟨hst, ho, hruns⟩ => ⟨hst, Bool.eq_false_iff.mpr fun hrun => ?_, ho⟩
              obtain ⟨r, hr, hn⟩ := Part.hasStartedRun_iff.mp hrun
              exact hruns r (by simpa [w, Part.setTaken] using hr) hn
          rw [Part.endTrip_of_endsWith (j := j.release c.bin) hj known service ends]
          simp only [w, freed, Part.setTaken, Part.unloaded, Part.setBin_of hb, show q.out = _ from silent, List.nil_append]
          rfl
      · intro proves
        refine ⟨fun ho => ?_, fun he ho => ?_⟩
        · have same : (c.emptied || !occupied) = c.emptied := by rcases ho with ho | ho <;> simp [ho]
          refine checks (x := proves p) settled rfl ((Part.conveyorCheck_of_proving (p := q) htrip hh ho).trans ?_) hheld
          simp only [proves, same]
          rfl
        · have checked := Part.conveyorCheck_of_emptied (p := q) htrip hh he ho
          rw [Part.releaseBin_onConveyor rfl (by exact hjob), Part.grantCheck_of_empty (by exact hq)] at checked
          refine checks (x := proves freed) (by simpa [proves, freed, Part.Settled] using settled) (by simp [proves, freed]) (checked.trans ?_) (by simpa [proves, freed] using hheld)
          simp only [proves, freed, Part.setBin_of hb, he, ho, occupied]
          rfl
    · intro set
      have audited : q.audit = (q, {}) := Part.audit_of_agree hagree
      have checked : q.conveyorCheck = (q, .noTrip) := Part.conveyorCheck_of_none htrip
      refine ⟨fun hc => ?_, fun us ns hc hqueue hus hns => ?_⟩
      · let x : Part := { p.setBin h.bin { state := .ejectWait, set := { set with
            plan := some { set.planned with wire := 0, reason := some .stitchJam } } } with
          carriage := { p.carriage with held := none }
          conv := { p.conv with queue := p.conv.queue ++ [{ bin := h.bin, placeable := none }] } }
        have given : q.settleHeld = ({ x with ctl := q.ctl }, .givenUp) := by
          rw [Part.settleHeld_of_jammed (p := q) hheld hc hb hm]
          simp only [x, Part.setBin_of hb]
          rfl
        exact homes (x := x) (by simpa [x, Part.Settled] using settled) (by simp [x]) (resumes audited checked given)
      · intro made
        let x : Part := { p.setBin h.bin { state := .stitchWait, set := { set with made := made } } with
          carriage := { p.carriage with
            held := none
            queue := if p.priorityOf h.bin = .urgent then h.bin :: (us ++ ns) else us ++ h.bin :: ns } }
        have returned : q.settleHeld = ({ x with ctl := q.ctl }, .returned) := by
          rw [Part.settleHeld_of_returned (p := q) hheld hc hb hout hqueue hus hns]
          simp only [x, Part.setBin_of hb]
          rfl
        exact homes (x := x) (by simpa [x, Part.Settled] using settled) (by simp [x]) (resumes audited checked returned)

end Sys2Proof.Machine
end
